-- ==== Sys2Proof/Word.lean ====
section
/-!
DEFINITION. The word types of the machine (spec/00_scope.md R7, R8; spec/30_encoding.md R71): fixed
widths, all unsigned. Every value the spec treats as bits is one of these.
-/

namespace Sys2Proof

/-- A byte: a general register, a timer, a memory cell (R21, R27, R28, R50). -/
abbrev Byte := BitVec 8

/-- A 16-bit word: `PC`, `I`, a return address, an instruction word (R23, R24, R26, R70). -/
abbrev Word := BitVec 16

/-- A nibble field of an instruction word: a register index or a row count (R71). -/
abbrev Nibble := BitVec 4

/-- The 12-bit address field `NNN` (R71). -/
abbrev Addr12 := BitVec 12

end Sys2Proof
end

