-- ==== Sys2Proof/Syntax.lean ====
section
/-!
DEFINITION. The instructions: one constructor per row of spec/opcode_table.json, in the table's
order (spec/30_encoding.md R75). A field has exactly the width R71 gives it, so every term is an
instruction of the machine.
-/

namespace Sys2Proof

/-- The 34 instructions of R75, each named by its pattern. `x`, `y` are register indices, `nn` a
byte, `nnn` a 12-bit address, `n` a row count (R12, R71). -/
inductive Instr where
  /-- `00E0` -/
  | cls
  /-- `00EE` -/
  | ret
  /-- `1NNN` -/
  | jp (nnn : Addr12)
  /-- `2NNN` -/
  | call (nnn : Addr12)
  /-- `3XNN` -/
  | seImm (x : Nibble) (nn : Byte)
  /-- `4XNN` -/
  | sneImm (x : Nibble) (nn : Byte)
  /-- `5XY0` -/
  | seReg (x y : Nibble)
  /-- `6XNN` -/
  | ldImm (x : Nibble) (nn : Byte)
  /-- `7XNN` -/
  | addImm (x : Nibble) (nn : Byte)
  /-- `8XY0` -/
  | ldReg (x y : Nibble)
  /-- `8XY1` -/
  | orReg (x y : Nibble)
  /-- `8XY2` -/
  | andReg (x y : Nibble)
  /-- `8XY3` -/
  | xorReg (x y : Nibble)
  /-- `8XY4` -/
  | addReg (x y : Nibble)
  /-- `8XY5` -/
  | subReg (x y : Nibble)
  /-- `8XY6` -/
  | shr (x y : Nibble)
  /-- `8XY7` -/
  | subn (x y : Nibble)
  /-- `8XYE` -/
  | shl (x y : Nibble)
  /-- `9XY0` -/
  | sneReg (x y : Nibble)
  /-- `ANNN` -/
  | ldI (nnn : Addr12)
  /-- `BNNN` -/
  | jpV0 (nnn : Addr12)
  /-- `CXNN` -/
  | rnd (x : Nibble) (nn : Byte)
  /-- `DXYN` -/
  | drw (x y n : Nibble)
  /-- `EX9E` -/
  | skp (x : Nibble)
  /-- `EXA1` -/
  | sknp (x : Nibble)
  /-- `FX07` -/
  | ldVxDt (x : Nibble)
  /-- `FX0A` -/
  | ldVxK (x : Nibble)
  /-- `FX15` -/
  | ldDtVx (x : Nibble)
  /-- `FX18` -/
  | ldStVx (x : Nibble)
  /-- `FX1E` -/
  | addIVx (x : Nibble)
  /-- `FX29` -/
  | ldFVx (x : Nibble)
  /-- `FX33` -/
  | ldBVx (x : Nibble)
  /-- `FX55` -/
  | ldMemVx (x : Nibble)
  /-- `FX65` -/
  | ldVxMem (x : Nibble)
  deriving DecidableEq, Repr

end Sys2Proof
end

