-- ==== Sys2Proof/Config.lean ====
section
/-!
DEFINITION. The configuration of the machine and the values the spec leaves open
(spec/10_state.md R33, R34; spec/00_scope.md R5; spec/42_alu.md R152; log 2, 3, 4).
-/

namespace Sys2Proof

/-- The configuration of a run, fixed before the first cycle and read-only to the core (R20, R33). -/
structure Config where
  /-- `FX55` and `FX65` leave `I` incremented by `X + 1` (R33). -/
  storeLoadQuirk : Bool
  /-- `8XY6` and `8XYE` read their source from `VY` (R33). -/
  shiftYQuirk : Bool
  /-- `CPU_HZ`, cycles per logical second, a positive integer (R5, D2). -/
  cpuHz : Nat
  /-- `FONT_BASE`, the address of the glyph of digit 0 (R34, D3). -/
  fontBase : Word
  /-- `FONT_DATA`, 16 glyphs of 5 bytes in digit order (R34, D4). -/
  fontData : Vector Byte 80
  deriving DecidableEq, Repr

/-- The default `FONT_DATA` of R34 (the spec marks it general knowledge, GK2; log 3). PRESUMED, unsafe. -/
def Config.defaultFont : Vector Byte 80 :=
  #v[0xF0, 0x90, 0x90, 0x90, 0xF0, 0x20, 0x60, 0x20, 0x20, 0x70,
     0xF0, 0x10, 0xF0, 0x80, 0xF0, 0xF0, 0x10, 0xF0, 0x10, 0xF0,
     0x90, 0x90, 0xF0, 0x10, 0x10, 0xF0, 0x80, 0xF0, 0x10, 0xF0,
     0xF0, 0x80, 0xF0, 0x90, 0xF0, 0xF0, 0x10, 0x20, 0x40, 0x40,
     0xF0, 0x90, 0xF0, 0x90, 0xF0, 0xF0, 0x90, 0xF0, 0x10, 0xF0,
     0xF0, 0x90, 0xF0, 0x90, 0x90, 0xE0, 0x90, 0xE0, 0x90, 0xE0,
     0xF0, 0x80, 0x80, 0x80, 0xF0, 0xE0, 0x90, 0x90, 0x90, 0xE0,
     0xF0, 0x80, 0xF0, 0x80, 0xF0, 0xF0, 0x80, 0xF0, 0x80, 0x80]

/-- `CPU_HZ - 1` of the machine after reset: OPEN in the spec (D2), so a constant with no value
(log 3). The frequency is one more than it, hence positive. -/
opaque Config.openCpuHzPred : Nat

/-- `FONT_BASE` of the machine after reset: OPEN in the spec (D3), so a constant with no value
(log 3). Its type is the spec's constraint `FONT_BASE + 80 <= 0x200`. -/
opaque Config.openFontBase : Fin 433

/-- The byte that the `n`-th executed `CXNN` draws: "any value 0..255, with no law" (R152, D17).
A free value (log 4). -/
opaque Config.randByte : Nat → Byte

/-- The configuration of `State.reset`: the quirks at the spec's default false (R33), the two OPEN
parameters as constants with no value, the default font (log 3). -/
def Config.atReset : Config where
  storeLoadQuirk := false
  shiftYQuirk := false
  cpuHz := Config.openCpuHzPred + 1
  fontBase := BitVec.ofNat 16 Config.openFontBase.val
  fontData := Config.defaultFont

end Sys2Proof
end

