-- ==== Sys2Proof/Machine/State.lean ====
section
/-!
DEFINITION. The state of the core as plain data (spec/10_state.md R20-R32, R36-R40; spec/60_exceptions.md
R240, R247, R253), its value after reset (R37), and the reasons a step can stop.
-/

namespace Sys2Proof.Machine

/-- The error kinds of R240. -/
inductive ErrorKind where
  /-- The fetched word matches no pattern (R241). -/
  | unknownOpcode
  /-- An accessed address exceeds 0xFFF (R242). -/
  | addressOutOfBounds
  /-- Push with 16 entries on the stack (R243). -/
  | stackOverflow
  /-- Pop with the stack empty (R244). -/
  | stackUnderflow
  /-- `V[X] > 0x0F` in `EX9E`, `EXA1`, `FX29` (R245). -/
  | operandOutOfRange
  /-- ROM longer than 3584 bytes; raised by `init` only (R246). -/
  | romTooLarge
  deriving DecidableEq, Repr

/-- The error record (R247). -/
structure ErrorRecord where
  kind : ErrorKind
  /-- `pc0`, the address the failing cycle fetched from. -/
  pc : Word
  /-- The fetched word, or none when the fetch itself failed. -/
  word : Option Word
  /-- The faulting address, for `addressOutOfBounds` only. -/
  addr : Option Nat
  deriving DecidableEq, Repr

/-- The input-wait state machine (R31, R210). -/
inductive Wait where
  | running
  | awaitingKey (x : Nibble)
  deriving DecidableEq, Repr

/-- The run status (R32). `halted` is permanent (R248). -/
inductive Status where
  | active
  | halted (e : ErrorRecord)
  deriving DecidableEq, Repr

/-- The position of the timing driver in its schedule (R38(d), R253): the ticks delivered so far. -/
structure Driver where
  cpuTicks : Nat
  timerTicks : Nat
  deriving DecidableEq, Repr

/-- Memory as the list of the cells that differ from the reset contents, addresses strictly rising
(R50; log 8). -/
abbrev Memory := List Host.Cell

/-- One row of pixels, `fb[y]` (R29). -/
abbrev PixelRow := Vector Bool 64

/-- The display buffer, `fb[y][x]` at row `y` and column `x` (R29). -/
abbrev Framebuffer := Vector PixelRow 32

/-- The state record of R20, with the configuration (read-only, log 2), the output of the latest
cycle (R40), the driver's position (R38(d)) and the model's own count of random draws (log 4). -/
structure State where
  /-- R50 -/
  mem : Memory
  /-- `V[0]` to `V[15]` (R21) -/
  v : Vector Byte 16
  /-- `I` (R23) -/
  i : Word
  /-- `PC` (R24) -/
  pc : Word
  /-- `SP`, the number of return addresses on the stack (R25) -/
  sp : Byte
  /-- the call stack (R26) -/
  stack : Vector Word 16
  /-- `DT` (R27) -/
  dt : Byte
  /-- `ST` (R28) -/
  st : Byte
  /-- R29 -/
  fb : Framebuffer
  /-- R30 -/
  keys : Vector Bool 16
  /-- R31 -/
  wait : Wait
  /-- R32 -/
  status : Status
  /-- the output `display_updated` of the latest CPU cycle (R40) -/
  displayUpdated : Bool
  /-- R33 -/
  cfg : Config
  /-- R38(d), R253 -/
  driver : Driver
  /-- random bytes drawn so far (the model's own; log 4) -/
  draws : Nat
  deriving DecidableEq, Repr

/-- Why the model stops. The spec's own errors are not here: they are entries into
`Status.halted`, a next state (R247; log 1). -/
inductive Fault where
  /-- Raised by `CALL` and `RET` when `SP` holds 17 to 255, values that "never occur" (R25), so that
  no stack entry is named. No run reaches it. Safe (log 10). -/
  | noSuchStackEntry
  deriving DecidableEq, Repr

/-- Why the model gives an instruction no meaning. -/
inductive Refusal where
  /-- Raised by an arm of `exec` whose instruction has no meaning yet; no arm does. Safe. -/
  | notModelled (mnemonic : String)
  deriving DecidableEq, Repr

/-- What ends an instruction's body before it completes: the spec's `raise` (R11), or the model's
fault. -/
inductive Stop where
  | raise (kind : ErrorKind) (addr : Option Nat)
  | fault (f : Fault)
  deriving DecidableEq, Repr

/-- The outcome of a step. -/
abbrev Result := Host.Outcome State Fault Refusal

/-- The machine after construction with no ROM byte written (R37, R270): memory at its reset
contents, `PC` at 0x200. The configuration is the one of `Config.atReset` (log 3). -/
def State.reset : State where
  mem := []
  v := Vector.replicate 16 0
  i := 0
  pc := 0x200
  sp := 0
  stack := Vector.replicate 16 0
  dt := 0
  st := 0
  fb := Vector.replicate 32 (Vector.replicate 64 false)
  keys := Vector.replicate 16 false
  wait := .running
  status := .active
  displayUpdated := false
  cfg := Config.atReset
  driver := ⟨0, 0⟩
  draws := 0

end Sys2Proof.Machine
end

