-- ==== Sys2Proof/WellFormed.lean ====
section
/-!
DEFINITION. What must hold of the data a run is built from. An instruction needs no check: each
field of `Instr` has exactly the width of R71, so no term of it is ill formed. The checks are on
the configuration (spec/00_scope.md R5, spec/10_state.md R34) and on the ROM
(spec/70_reset_and_hazards.md R272).
-/

namespace Sys2Proof

/-- `MAX_ROM` = 4096 - 0x200 = 3584 (R5, R272). -/
def maxRom : Nat := 3584

/-- `CPU_HZ` is a positive integer (R5). -/
def Config.cpuHzOk (cfg : Config) : Bool := decide (0 < cfg.cpuHz)

/-- The font lies in the reserved region: `FONT_BASE + 80 <= 0x200` (R34). -/
def Config.fontOk (cfg : Config) : Bool := decide (cfg.fontBase.toNat + 80 ≤ 0x200)

/-- An admissible configuration (R5, R34). -/
def Config.wf (cfg : Config) : Bool := cfg.cpuHzOk && cfg.fontOk

/-- The ROM fits between 0x200 and 0xFFF (R272). -/
def romFits (rom : List Byte) : Bool := decide (rom.length ≤ maxRom)

end Sys2Proof
end

