-- ==== Sys2Proof/Machine/Ops.lean ====
section
/-!
DEFINITION. The named operations over the state: registers, memory, the call stack, the timers, the
keys, and the entry into an error (spec/10_state.md, 20_memory.md R53-R59, 41_control_flow.md R110-R111,
60_exceptions.md R247, R252).
-/

namespace Sys2Proof.Machine

/-! ### Registers -/

/-- `V[x]` (R9, R21). -/
def State.reg (s : State) (x : Nibble) : Byte := s.v[x.toNat]

/-- `V[x] <- b` (R9). No register is hardwired (R21). -/
def State.setReg (x : Nibble) (b : Byte) (s : State) : State :=
  { s with v := s.v.set x.toNat b }

/-- `I <- a` (R23). -/
def State.setI (a : Word) (s : State) : State := { s with i := a }

/-- `PC <- a` (R24). -/
def State.setPc (a : Word) (s : State) : State := { s with pc := a }

/-- `PC <- pc0 + 2`, the sequential class of R95. -/
def State.advance (s : State) : State := s.setPc (s.pc + 2)

/-- `PC <- c ? pc0 + 4 : pc0 + 2`, the skip class of R95. The skipped word is not fetched (R101). -/
def State.skipIf (c : Bool) (s : State) : State := s.setPc (if c then s.pc + 4 else s.pc + 2)

/-- `DT <- b` (R27). -/
def State.setDt (b : Byte) (s : State) : State := { s with dt := b }

/-- `ST <- b` (R28). -/
def State.setSt (b : Byte) (s : State) : State := { s with st := b }

/-- `wait <- w` (R31). -/
def State.setWait (w : Wait) (s : State) : State := { s with wait := w }

/-- The output `display_updated` of this cycle (R40). -/
def State.setDisplayUpdated (b : Bool) (s : State) : State := { s with displayUpdated := b }

/-- `fb <- f` (R29). -/
def State.setFb (f : Framebuffer) (s : State) : State := { s with fb := f }

/-- One more random byte has been drawn (R11; log 4). -/
def State.countDraw (s : State) : State := { s with draws := s.draws + 1 }

/-! ### Memory -/

/-- What an address holds that nothing has written: its reset contents, the font byte at
`FONT_BASE ..` and 0 elsewhere (R37, R51, R270; log 8). -/
def Memory.unlisted (cfg : Config) (a : Nat) : Byte :=
  if 0x200 ≤ a then 0
  else if a < cfg.fontBase.toNat then 0
  else if h : a - cfg.fontBase.toNat < 80 then cfg.fontData[a - cfg.fontBase.toNat]
  else 0

/-- The byte listed at an address, if one is. -/
def Memory.listed : Memory → Nat → Option Byte
  | [], _ => none
  | c :: m, a => if c.1 = a then some c.2 else Memory.listed m a

/-- The byte that memory `m` holds at `a` (R60: reading changes nothing). -/
def Memory.read (cfg : Config) (m : Memory) (a : Nat) : Byte :=
  (m.listed a).getD (Memory.unlisted cfg a)

/-- The cell of address `a` put at its place in the order. -/
def Memory.insert (a : Nat) (b : Byte) : Memory → Memory
  | [] => [(a, b)]
  | c :: m => if a < c.1 then (a, b) :: c :: m else c :: Memory.insert a b m

/-- `mem[a] <- b`: the cell of `a` is dropped, and put back unless `b` is what an unlisted `a` reads
as (R54; log 8). -/
def Memory.write (cfg : Config) (a : Nat) (b : Byte) (m : Memory) : Memory :=
  let rest := m.filter fun c => c.1 != a
  if b = Memory.unlisted cfg a then rest else Memory.insert a b rest

/-- `mem[a + k] <- bs[k]` for every `k`. -/
def Memory.writeAll (cfg : Config) : Nat → List Byte → Memory → Memory
  | _, [], m => m
  | a, b :: bs, m => Memory.writeAll cfg (a + 1) bs (Memory.write cfg a b m)

/-- The canonical form: addresses strictly rising and at most 0xFFF, no cell equal to what its
address reads as when unlisted. -/
abbrev Memory.wf (cfg : Config) (m : Memory) : Prop :=
  m.Pairwise (fun c d => c.1 < d.1) ∧ ∀ c ∈ m, c.1 ≤ 0xFFF ∧ c.2 ≠ Memory.unlisted cfg c.1

/-- The byte at address `a`. Only addresses up to 0xFFF exist (R50); every access of an instruction
is checked first (`loadBytes`, `storeBytes`, `fetchWord`). -/
def State.byteAt (s : State) (a : Nat) : Byte := Memory.read s.cfg s.mem a

/-- The bytes at `a`, ..., `a + n - 1`. -/
def State.bytesAt (s : State) (a : Nat) : Nat → List Byte
  | 0 => []
  | n + 1 => s.byteAt a :: State.bytesAt s (a + 1) n

/-- The bytes `bs` written from address `a` on. -/
def State.writeBytes (a : Nat) (bs : List Byte) (s : State) : State :=
  { s with mem := Memory.writeAll s.cfg a bs s.mem }

/-- Every address of an access of `n` bytes at `a` is at most 0xFFF (R53, R59). -/
def spanOk (a n : Nat) : Bool := decide (n = 0 ∨ a + n - 1 ≤ 0xFFF)

/-- The lowest address above 0xFFF of an access at `a` that has one: `max(a, 0x1000)` (R59). -/
def lowestOutOfBounds (a : Nat) : Nat := max a 0x1000

/-- `MemRead(a + k, 1)` for `k = 0 .. n-1`, every address checked before any is read (R53, R59).
With `n = 1` it is the spec's `MemRead(a, 1)`. -/
def loadBytes (a n : Nat) (s : State) : Except Stop (List Byte) :=
  if spanOk a n then .ok (s.bytesAt a n)
  else .error (.raise .addressOutOfBounds (some (lowestOutOfBounds a)))

/-- `MemWrite(a + k, 1, bs[k])` for every `k`, every address checked before any is written (R54,
R59). With one byte it is the spec's `MemWrite(a, 1, v)`. -/
def storeBytes (a : Nat) (bs : List Byte) (s : State) : Except Stop State :=
  if spanOk a bs.length then .ok (s.writeBytes a bs)
  else .error (.raise .addressOutOfBounds (some (lowestOutOfBounds a)))

/-- `MemRead(PC, 2)`, the fetch: none when `PC >= 0xFFF`, which faults (R55, R93). -/
def fetchWord (s : State) : Option Word :=
  if 0xFFF ≤ s.pc.toNat then none
  else some (joinBytes (s.byteAt s.pc.toNat) (s.byteAt (s.pc.toNat + 1)))

/-! ### The call stack -/

/-- `push(v)` (R110). The last case is a state the spec says never occurs (R25; log 10). -/
def push (a : Word) (s : State) : Except Stop State :=
  if s.sp = 16 then .error (.raise .stackOverflow none)
  else if h : s.sp.toNat < 16 then
    .ok { s with stack := s.stack.set s.sp.toNat a, sp := s.sp + 1 }
  else .error (.fault .noSuchStackEntry)

/-- `pop()`: the popped address and the state after it (R111). The entry stays as a dead value. The
last case is a state the spec says never occurs (R25; log 10). -/
def pop (s : State) : Except Stop (Word × State) :=
  if s.sp = 0 then .error (.raise .stackUnderflow none)
  else if h : s.sp.toNat - 1 < 16 then
    .ok (s.stack[s.sp.toNat - 1], { s with sp := s.sp - 1 })
  else .error (.fault .noSuchStackEntry)

/-! ### Taking an error -/

/-- The numeric code of a kind on the `error` output (R240). -/
def ErrorKind.code : ErrorKind → Nat
  | .unknownOpcode => 1
  | .addressOutOfBounds => 2
  | .stackOverflow => 3
  | .stackUnderflow => 4
  | .operandOutOfRange => 5
  | .romTooLarge => 6

/-- Error entry (R247): `status <- Halted(e)` and nothing else. No register is saved and control goes
nowhere. There is no return from it (R248). -/
def State.halt (e : ErrorRecord) (s : State) : State := { s with status := .halted e }

/-- The end of the cycle of instruction `ins` begun in `s` (R11, R96, R97): the body's state when it
completed; when it raised an error, `s` with every write of the body discarded, halted with
`pc = pc0` and the instruction's word (log 12). -/
def commit (ins : Instr) (s : State) : Except Stop State → Result
  | .ok t => .next t
  | .error (.raise kind addr) =>
    .next (s.halt { kind := kind, pc := s.pc, word := some (encode ins), addr := addr })
  | .error (.fault f) => .fault f

/-! ### Timers -/

/-- A countdown register after `n` timer ticks, floored at 0 (R252). -/
def countDown (n : Nat) (t : Byte) : Byte := BitVec.ofNat 8 (t.toNat - n)

/-- `n` timer ticks delivered at once to an active core (R252, R253). -/
def State.elapse (n : Nat) (s : State) : State :=
  { s with
    dt := countDown n s.dt
    st := countDown n s.st
    driver := { s.driver with timerTicks := s.driver.timerTicks + n } }

/-- `timer_tick` (R252): nothing once halted (R248). -/
def timerTick (s : State) : State :=
  match s.status with
  | .halted _ => s
  | .active =>
    { s with
      dt := if 0 < s.dt.toNat then s.dt - 1 else s.dt
      st := if 0 < s.st.toNat then s.st - 1 else s.st
      driver := { s.driver with timerTicks := s.driver.timerTicks + 1 } }

/-- How many timer ticks the schedule of R253 places before CPU tick `j`: those `k >= 1` with
`H k < 60 j`, since a CPU tick goes first on a tie. -/
def ticksBeforeCpuTick (hz j : Nat) : Nat := (60 * j - 1) / hz

/-- The timer ticks due before the next CPU tick and not delivered yet (R253). -/
def State.dueTicks (s : State) : Nat :=
  ticksBeforeCpuTick s.cfg.cpuHz (s.driver.cpuTicks + 1) - s.driver.timerTicks

/-- `s` after the timer ticks due before the next CPU tick (R253). -/
def State.deliverDueTicks (s : State) : State := s.elapse s.dueTicks

/-- The driver has delivered one more CPU tick (R253). -/
def State.countCpuTick (s : State) : State :=
  { s with driver := { s.driver with cpuTicks := s.driver.cpuTicks + 1 } }

/-! ### Keys and outputs -/

/-- `key_set(k, p)`, the host's setter, between two events (R39, R218; log 6). R218 puts no condition on
the status, so the flag is written on a halted core too: DESIGN CHOICE, log 17. -/
def keySet (k : Nibble) (p : Bool) (s : State) : State := { s with keys := s.keys.set k.toNat p }

/-- `keys[k]` (R9, R30). -/
def State.key (s : State) (k : Nibble) : Bool := s.keys[k.toNat]

/-- The least pressed key, if one is (R212). -/
def State.leastKey (s : State) : Option Nibble :=
  (s.keys.toList.findIdx? (fun p => p)).map (BitVec.ofNat 4)

/-- `fb[y][x]`, the pixel at column `x` and row `y` (R29). -/
def State.pixel (s : State) (y : Fin 32) (x : Fin 64) : Bool := s.fb[y.val][x.val]

/-- The output `tone_active` (R28, R255). -/
def State.toneActive (s : State) : Bool := s.st != 0

/-- The output `error`: the record, once halted (R39, R258). -/
def State.errorOf (s : State) : Option ErrorRecord :=
  match s.status with
  | .active => none
  | .halted e => some e

/-- The output `halted` (R39). -/
def State.isHalted (s : State) : Bool := s.errorOf.isSome

/-! ### Construction -/

/-- `init(rom, cfg)` (R270, R271): the state, or `RomTooLarge` and no state (R272). -/
def init (rom : List Byte) (cfg : Config) : Except ErrorKind State :=
  if romFits rom then .ok ({ State.reset with cfg := cfg }.writeBytes 0x200 rom)
  else .error .romTooLarge

end Sys2Proof.Machine
end

