-- ==== Sys2Proof/Machine/Flags.lean ====
section
/-!
DEFINITION. The one flag, VF (spec/10_state.md R35), and how each instruction that writes it
computes it (spec/42_alu.md R147-R151, spec/44_display.md R193).
-/

namespace Sys2Proof.Machine

/-- The index of VF (R21, R35). -/
def vf : Nibble := 0xF

/-- A flag as a register value: 1 or 0. -/
def flagByte (c : Bool) : Byte := if c then 1 else 0

/-- `V[0xF] <- c ? 1 : 0`. It is the last register write of its instruction (R98, R140). -/
def State.setFlag (c : Bool) (s : State) : State := s.setReg vf (flagByte c)

/-- Carry out of bit 7 of `a + b` (R147). -/
def carryOut (a b : Byte) : Bool := decide (255 < a.toNat + b.toNat)

/-- No borrow in `a - b`, equality included (R148, R150, D13). -/
def noBorrow (a b : Byte) : Bool := decide (b.toNat ≤ a.toNat)

/-- The bit that a right shift by one shifts out, bit 0 (R149). -/
def shiftedOutRight (b : Byte) : Bool := b.getLsbD 0

/-- The bit that a left shift by one shifts out, bit 7 (R151). -/
def shiftedOutLeft (b : Byte) : Bool := b.getLsbD 7

end Sys2Proof.Machine
end

