-- ==== Sys2Proof/Machine/Operands.lean ====
section
/-!
DEFINITION. The operand forms: immediates (spec/30_encoding.md R72), the shift source and the
index increment under the quirks (spec/42_alu.md R149; spec/43_index_memory.md R174), the nibble
operands (R172, R213), the bytes stored and loaded (R173-R175).
-/

namespace Sys2Proof.Machine

/-- `zext_16(NNN)` (R72). -/
def zextAddr (nnn : Addr12) : Word := nnn.setWidth 16

/-- A byte as a 16-bit value, for the sums of `BNNN` and `FX1E` (R119, R171). -/
def zextByte (b : Byte) : Word := b.setWidth 16

/-- The source of a shift: `V[Y]` under `shift_y_quirk`, else `V[X]` (R149, R151). -/
def State.shiftSource (s : State) (x y : Nibble) : Byte :=
  if s.cfg.shiftYQuirk then s.reg y else s.reg x

/-- `V[X]` as a key index or hex digit: an error above 0x0F (R172, R213, R214, R245). -/
def nibbleOperand (x : Nibble) (s : State) : Except Stop Nibble :=
  if 0xF < (s.reg x).toNat then .error (.raise .operandOutOfRange none)
  else .ok ((s.reg x).setWidth 4)

/-- The address of the glyph of digit `d`: `FONT_BASE + 5 d` (R34, R172). -/
def glyphAddress (cfg : Config) (d : Nibble) : Word := cfg.fontBase + 5 * d.setWidth 16

/-- `I + X + 1` under `store_load_quirk`, else `I` unchanged (R174, R175). -/
def State.bumpIndex (x : Nibble) (s : State) : State :=
  if s.cfg.storeLoadQuirk then s.setI (s.i + x.setWidth 16 + 1) else s

/-- The three decimal digits of a byte, hundreds first (R173). -/
def bcdDigits (b : Byte) : List Byte :=
  [BitVec.ofNat 8 (b.toNat / 100), BitVec.ofNat 8 (b.toNat / 10 % 10), BitVec.ofNat 8 (b.toNat % 10)]

/-- `V[0], ..., V[X]` in order (R174). -/
def State.regsUpTo (s : State) (x : Nibble) : List Byte := s.v.toList.take (x.toNat + 1)

/-- `V[i] <- bs[i]` for every `i` that `bs` has; the others keep their value (R175). -/
def State.setRegs (bs : List Byte) (s : State) : State :=
  { s with v := Vector.ofFn fun i : Fin 16 => bs.getD i.val s.v[i.val] }

end Sys2Proof.Machine
end

