-- ==== Sys2Proof/Machine/Alu.lean ====
section
/-!
DEFINITION. Registers, arithmetic and logic: `6XNN`, `7XNN`, `8XY0`-`8XY7`, `8XYE`, `CXNN`
(spec/42_alu.md R140-R152). Operands are read first; a flag is written last (R98, R140).
-/

namespace Sys2Proof.Machine

/-- `V[X] <- b`, VF untouched unless it is the destination, then `PC <- pc0 + 2`. -/
def State.result (x : Nibble) (b : Byte) (s : State) : State := (s.setReg x b).advance

/-- `V[X] <- b`, then `V[0xF] <- c`, then `PC <- pc0 + 2` (R140). -/
def State.resultFlag (x : Nibble) (b : Byte) (c : Bool) (s : State) : State :=
  ((s.setReg x b).setFlag c).advance

/-- `6XNN`: `VX = NN` (R141). -/
def execLdImm (x : Nibble) (nn : Byte) (s : State) : Result := .next (s.result x nn)

/-- `7XNN`: `VX += NN` modulo 256, no carry (R142). -/
def execAddImm (x : Nibble) (nn : Byte) (s : State) : Result := .next (s.result x (s.reg x + nn))

/-- `8XY0`: `VX = VY` (R143). -/
def execLdReg (x y : Nibble) (s : State) : Result := .next (s.result x (s.reg y))

/-- `8XY1`: `VX = VX OR VY` (R144). -/
def execOrReg (x y : Nibble) (s : State) : Result := .next (s.result x (s.reg x ||| s.reg y))

/-- `8XY2`: `VX = VX AND VY` (R145). -/
def execAndReg (x y : Nibble) (s : State) : Result := .next (s.result x (s.reg x &&& s.reg y))

/-- `8XY3`: `VX = VX XOR VY` (R146). -/
def execXorReg (x y : Nibble) (s : State) : Result := .next (s.result x (s.reg x ^^^ s.reg y))

/-- `8XY4`: `VX = VX + VY` modulo 256, VF the carry (R147). -/
def execAddReg (x y : Nibble) (s : State) : Result :=
  .next (s.resultFlag x (s.reg x + s.reg y) (carryOut (s.reg x) (s.reg y)))

/-- `8XY5`: `VX = VX - VY` modulo 256, VF = 1 when no borrow (R148). -/
def execSubReg (x y : Nibble) (s : State) : Result :=
  .next (s.resultFlag x (s.reg x - s.reg y) (noBorrow (s.reg x) (s.reg y)))

/-- `8XY6`: the source shifted right by one into `VX`, VF its bit 0 (R149). -/
def execShr (x y : Nibble) (s : State) : Result :=
  .next (s.resultFlag x (s.shiftSource x y >>> 1) (shiftedOutRight (s.shiftSource x y)))

/-- `8XY7`: `VX = VY - VX` modulo 256, VF = 1 when no borrow (R150). -/
def execSubn (x y : Nibble) (s : State) : Result :=
  .next (s.resultFlag x (s.reg y - s.reg x) (noBorrow (s.reg y) (s.reg x)))

/-- `8XYE`: the source shifted left by one into `VX`, VF its bit 7 (R151). -/
def execShl (x y : Nibble) (s : State) : Result :=
  .next (s.resultFlag x (s.shiftSource x y <<< 1) (shiftedOutLeft (s.shiftSource x y)))

/-- `CXNN` with the byte `r` drawn: `VX = r AND NN` (R152). -/
def rndWith (r : Byte) (x : Nibble) (nn : Byte) (s : State) : State :=
  (s.result x (r &&& nn)).countDraw

/-- `CXNN`: the byte is a free value, a new one for each execution (R152; log 4). -/
def execRnd (x : Nibble) (nn : Byte) (s : State) : Result :=
  .next (rndWith (Config.randByte s.draws) x nn s)

end Sys2Proof.Machine
end

