-- ==== Sys2Proof/Machine/ControlFlow.lean ====
section
/-!
DEFINITION. Control flow: `00EE`, `1NNN`, `2NNN`, `3XNN`, `4XNN`, `5XY0`, `9XY0`, `BNNN`
(spec/41_control_flow.md R112-R119).
-/

namespace Sys2Proof.Machine

/-- `00EE`: `PC <- pop()`, the popped address as it is (R112). -/
def execRet (s : State) : Result :=
  commit .ret s do
    let (a, t) ← pop s
    return t.setPc a

/-- `1NNN`: `PC <- NNN` (R113). -/
def execJp (nnn : Addr12) (s : State) : Result := .next (s.setPc (zextAddr nnn))

/-- `2NNN`: `push(pc0 + 2)`, then `PC <- NNN` (R114). -/
def execCall (nnn : Addr12) (s : State) : Result :=
  commit (.call nnn) s do
    let t ← push (s.pc + 2) s
    return t.setPc (zextAddr nnn)

/-- `3XNN`: skip if `VX = NN` (R115). -/
def execSeImm (x : Nibble) (nn : Byte) (s : State) : Result := .next (s.skipIf (s.reg x == nn))

/-- `4XNN`: skip if `VX != NN` (R116). -/
def execSneImm (x : Nibble) (nn : Byte) (s : State) : Result := .next (s.skipIf (s.reg x != nn))

/-- `5XY0`: skip if `VX = VY` (R117). -/
def execSeReg (x y : Nibble) (s : State) : Result := .next (s.skipIf (s.reg x == s.reg y))

/-- `9XY0`: skip if `VX != VY` (R118). -/
def execSneReg (x y : Nibble) (s : State) : Result := .next (s.skipIf (s.reg x != s.reg y))

/-- `BNNN`: `PC <- NNN + V0`, the exact sum, not masked (R119). -/
def execJpV0 (nnn : Addr12) (s : State) : Result :=
  .next (s.setPc (zextAddr nnn + zextByte (s.reg 0)))

end Sys2Proof.Machine
end

