-- ==== Sys2Proof/Machine/Display.lean ====
section
/-!
DEFINITION. The display: `00E0`, `DXYN` (spec/44_display.md R190-R193).
-/

namespace Sys2Proof.Machine

/-- All 2048 pixels off (R191). -/
def blankFb : Framebuffer := Vector.replicate 32 (Vector.replicate 64 false)

/-- `00E0`: clear the display (R191). -/
def execCls (s : State) : Result := .next ((s.setFb blankFb).setDisplayUpdated true).advance

/-- A display buffer being drawn on, with the collision found so far (R192). -/
abbrev Canvas := Framebuffer × Bool

/-- Invert the pixel at column `px mod 64` and row `py mod 32`; a pixel that was on is a collision
(R190, R192, R193). -/
def invertPixel (px py : Nat) (k : Canvas) : Canvas :=
  let x : Fin 64 := ⟨px % 64, Nat.mod_lt _ (by decide)⟩
  let y : Fin 32 := ⟨py % 32, Nat.mod_lt _ (by decide)⟩
  let old := k.1[y.val][x.val]
  (k.1.set y.val (k.1[y.val].set x.val (!old)), k.2 || old)

/-- The sprite bit at column offset `c` of a row byte: bit `7 - c` (R190). -/
def spriteBit (row : Byte) (c : Nat) : Bool := row.getLsbD (7 - c)

/-- One sprite row at row offset `r`: its set bits, left to right (R192). -/
def drawRow (vx vy r : Nat) (row : Byte) (k : Canvas) : Canvas :=
  (List.range 8).foldl
    (fun k c => if spriteBit row c then invertPixel (vx + c) (vy + r) k else k) k

/-- The sprite rows from row offset `r` on (R192). -/
def drawRows (vx vy : Nat) : Nat → List Byte → Canvas → Canvas
  | _, [], k => k
  | r, row :: rows, k => drawRows vx vy (r + 1) rows (drawRow vx vy r row k)

/-- `DXYN`: draw `N` sprite rows from `I` at (`VX`, `VY`), VF the collision (R192). -/
def execDrw (x y n : Nibble) (s : State) : Result :=
  commit (.drw x y n) s do
    let rows ← loadBytes s.i.toNat n.toNat s
    let k := drawRows (s.reg x).toNat (s.reg y).toNat 0 rows (s.fb, false)
    return (((s.setFb k.1).setFlag k.2).setDisplayUpdated true).advance

end Sys2Proof.Machine
end

