-- ==== Sys2Proof/Machine/IndexMemory.lean ====
section
/-!
DEFINITION. The index register and memory: `ANNN`, `FX1E`, `FX29`, `FX33`, `FX55`, `FX65`
(spec/43_index_memory.md R170-R175). The effective address is `I + k` as a natural number.
-/

namespace Sys2Proof.Machine

/-- `ANNN`: `I = NNN` (R170). -/
def execLdI (nnn : Addr12) (s : State) : Result := .next (s.setI (zextAddr nnn)).advance

/-- `FX1E`: `I += VX` modulo 2^16, VF untouched (R171). -/
def execAddIVx (x : Nibble) (s : State) : Result :=
  .next (s.setI (s.i + zextByte (s.reg x))).advance

/-- `FX29`: `I` = the address of the glyph of digit `VX` (R172). -/
def execLdFVx (x : Nibble) (s : State) : Result :=
  commit (.ldFVx x) s do
    let d ← nibbleOperand x s
    return (s.setI (glyphAddress s.cfg d)).advance

/-- `FX33`: the decimal digits of `VX` to `I`, `I + 1`, `I + 2` (R173). -/
def execLdBVx (x : Nibble) (s : State) : Result :=
  commit (.ldBVx x) s do
    let t ← storeBytes s.i.toNat (bcdDigits (s.reg x)) s
    return t.advance

/-- `FX55`: `V0..VX` to memory from `I` on (R174). -/
def execLdMemVx (x : Nibble) (s : State) : Result :=
  commit (.ldMemVx x) s do
    let t ← storeBytes s.i.toNat (s.regsUpTo x) s
    return (t.bumpIndex x).advance

/-- `FX65`: `V0..VX` from memory from `I` on (R175). -/
def execLdVxMem (x : Nibble) (s : State) : Result :=
  commit (.ldVxMem x) s do
    let bs ← loadBytes s.i.toNat (x.toNat + 1) s
    return ((s.setRegs bs).bumpIndex x).advance

end Sys2Proof.Machine
end

