-- ==== Sys2Proof/Machine/TimersInput.lean ====
section
/-!
DEFINITION. Timers and input: `EX9E`, `EXA1`, `FX07`, `FX0A`, `FX15`, `FX18`, and the cycle of the
input-wait state (spec/45_timers_input.md R210-R217).
-/

namespace Sys2Proof.Machine

/-- `EX9E`: skip if key `VX` is pressed (R213). -/
def execSkp (x : Nibble) (s : State) : Result :=
  commit (.skp x) s do
    let k ← nibbleOperand x s
    return s.skipIf (s.key k)

/-- `EXA1`: skip if key `VX` is not pressed (R214). -/
def execSknp (x : Nibble) (s : State) : Result :=
  commit (.sknp x) s do
    let k ← nibbleOperand x s
    return s.skipIf (!s.key k)

/-- `FX07`: `VX = DT` (R215). -/
def execLdVxDt (x : Nibble) (s : State) : Result := .next (s.setReg x s.dt).advance

/-- `FX0A`, its dispatching cycle: the wait begins, `PC` is not written, the keys are not sampled
(R211). -/
def execLdVxK (x : Nibble) (s : State) : Result := .next (s.setWait (.awaitingKey x))

/-- `FX15`: `DT = VX` (R216). -/
def execLdDtVx (x : Nibble) (s : State) : Result := .next (s.setDt (s.reg x)).advance

/-- `FX18`: `ST = VX` (R217). -/
def execLdStVx (x : Nibble) (s : State) : Result := .next (s.setSt (s.reg x)).advance

/-- `key_wait_step(x)`: the CPU cycle of `AwaitingKey(x)` (R212). -/
def keyWaitStep (x : Nibble) (s : State) : State :=
  match s.leastKey with
  | some k => ((s.setReg x (k.setWidth 8)).advance).setWait .running
  | none => s

end Sys2Proof.Machine
end

