-- ==== Sys2Proof/Machine/Cycle.lean ====
section
/-!
DEFINITION. The CPU cycle (spec/40_dispatch_cycle.md R90-R102), the events of a run and the timing
driver (spec/60_exceptions.md R252, R253; spec/70_reset_and_hazards.md R279, R280).
-/

namespace Sys2Proof.Machine

/-- Fetch, decode, execute (R90): the fetch bound first, then decode, then the instruction's own
error (R249). -/
def fetchExecute (s : State) : Result :=
  match fetchWord s with
  | none =>
    .next (s.halt
      { kind := .addressOutOfBounds, pc := s.pc, word := none, addr := some s.pc.toNat })
  | some w =>
    match decode w with
    | none => .next (s.halt { kind := .unknownOpcode, pc := s.pc, word := some w, addr := none })
    | some ins => exec ins s

/-- One CPU cycle (R90): nothing once halted (R91), the key check while awaiting a key (R92), else
one fetched instruction. `display_updated` is false unless the cycle completes a draw or clear
(R40). -/
def cpuCycle (s : State) : Result :=
  match s.status with
  | .halted _ => .next s
  | .active =>
    match s.wait with
    | .awaitingKey x => .next (keyWaitStep x (s.setDisplayUpdated false))
    | .running => fetchExecute (s.setDisplayUpdated false)

/-- `cpu_tick` (R39): one CPU cycle, counted by the driver; no effect once halted (R91). -/
def cpuTick (s : State) : Result :=
  match s.status with
  | .halted _ => .next s
  | .active => cpuCycle s.countCpuTick

/-- The events of a run (R279). -/
inductive Event where
  | cpuTick
  | timerTick
  | keySet (k : Nibble) (p : Bool)
  deriving DecidableEq, Repr

/-- The effect of one event (R90, R252, R218). Once halted the two ticks change nothing (R248); a key
change still writes its flag, a point R279 leaves open, since the run has ended there: DESIGN CHOICE,
log 17. -/
def applyEvent (s : State) : Event → Result
  | .cpuTick => cpuTick s
  | .timerTick => .next (timerTick s)
  | .keySet k p => .next (keySet k p s)

/-- A run: the events applied in order (R279). -/
def runEvents : List Event → State → Result
  | [], s => .next s
  | e :: es, s =>
    match applyEvent s e with
    | .next t => runEvents es t
    | .fault f => .fault f
    | .refused r => .refused r

/-- The driver's schedule up to and including its next CPU tick (R253): the timer ticks due before
it, then the CPU tick (log 5). Nothing once halted (R248). -/
def driverStep (s : State) : Result :=
  match s.status with
  | .halted _ => .next s
  | .active => cpuTick s.deliverDueTicks

/-- The word `w` stored where the next cycle fetches, high byte first, and the core put where that
cycle does fetch (log 7). With `PC >= 0xFFF` there is no such place. -/
def State.placeWord (w : Word) (s : State) : State :=
  let t := { s with wait := .running, status := .active }
  if t.pc.toNat ≤ 0xFFE then t.writeBytes t.pc.toNat [hiByte w, loByte w] else t

end Sys2Proof.Machine
end

