-- ==== Sys2Proof/Machine/Step.lean ====
section
/-!
DEFINITION. One step of the machine: the timer ticks due before the next CPU tick, then that CPU
tick (spec/60_exceptions.md R253; log 5).
-/

namespace Sys2Proof.Machine

/-- One step (R90, R253). -/
def step (s : State) : Host.Outcome State Fault Refusal := driverStep s

/-- `s` with the instruction whose table bits are `w` stored where `step` fetches next (log 7). -/
def State.withFetchWord (s : State) (nbits w : Nat) : State :=
  s.placeWord (BitVec.ofNat 16 (w % 2 ^ nbits))

end Sys2Proof.Machine
end

