-- ==== Sys2Proof/Safety.lean ====
section
/-!
DEFINITION. The terms claims are stated in: the parts of the state one by one, what it means that an
instruction changes nothing else, and the invariant of the machine.
-/

namespace Sys2Proof.Machine

/-- The parts of the state, each register, stack entry, pixel, key and byte of memory on its own. -/
inductive Part where
  | reg (x : Nibble)
  | i
  | pc
  | sp
  | stack (k : Fin 16)
  | dt
  | st
  | pixel (y : Fin 32) (x : Fin 64)
  | key (k : Nibble)
  | wait
  | status
  | displayUpdated
  | cfg
  | driver
  | draws
  | byte (a : Nat)
  deriving DecidableEq, Repr

/-- `s` and `t` hold the same in this part. -/
def Part.same (s t : State) : Part → Prop
  | .reg x => t.reg x = s.reg x
  | .i => t.i = s.i
  | .pc => t.pc = s.pc
  | .sp => t.sp = s.sp
  | .stack k => t.stack[k.val] = s.stack[k.val]
  | .dt => t.dt = s.dt
  | .st => t.st = s.st
  | .pixel y x => t.pixel y x = s.pixel y x
  | .key k => t.key k = s.key k
  | .wait => t.wait = s.wait
  | .status => t.status = s.status
  | .displayUpdated => t.displayUpdated = s.displayUpdated
  | .cfg => t.cfg = s.cfg
  | .driver => t.driver = s.driver
  | .draws => t.draws = s.draws
  | .byte a => t.byteAt a = s.byteAt a

/-- From `s` to `t` only parts in `P` may have changed. -/
def onlyChanges (P : Part → Prop) (s t : State) : Prop := ∀ p, ¬ P p → p.same s t

/-- The core runs: it has not halted on an error (R32). A safe run never leaves it. -/
abbrev State.isActive (s : State) : Prop := s.status = .active

/-- The next step fetches an instruction: active and not waiting for a key (R90-R92). -/
abbrev State.fetches (s : State) : Prop := s.status = .active ∧ s.wait = .running

/-- The next step is a key check for register `x` (R92). -/
abbrev State.awaits (s : State) (x : Nibble) : Prop :=
  s.status = .active ∧ s.wait = .awaitingKey x

/-- The bytes at `PC` decode to `ins` (R90, R93): both exist, high byte first. -/
abbrev State.fetchesInstr (s : State) (ins : Instr) : Prop :=
  s.pc.toNat ≤ 0xFFE ∧
    decode (joinBytes (s.byteAt s.pc.toNat) (s.byteAt (s.pc.toNat + 1))) = some ins

/-- The sprite of `DXYN` has a bit set on the pixel at row `py` and column `px`: bit `7 - c` of the
byte at `I + r`, with the coordinates wrapping (R190, R192). -/
def State.spriteHits (s : State) (x y n : Nibble) (py : Fin 32) (px : Fin 64) : Prop :=
  ∃ r c : Nat, r < n.toNat ∧ c < 8 ∧
    (s.byteAt (s.i.toNat + r)).getLsbD (7 - c) = true ∧
    px.val = ((s.reg x).toNat + c) % 64 ∧ py.val = ((s.reg y).toNat + r) % 32

/-- `s` halted on an error of instruction `ins`, everything else unchanged: the record holds the kind,
`pc0`, the instruction's word and the faulting address (R247). -/
def State.haltedBy (s : State) (kind : ErrorKind) (ins : Instr) (addr : Option Nat) : State :=
  { s with
    status := .halted { kind := kind, pc := s.pc, word := some (encode ins), addr := addr } }

/-- What the machine keeps true from construction on. -/
structure State.Inv (s : State) : Prop where
  /-- memory is in canonical form (log 8) -/
  memWf : Memory.wf s.cfg s.mem
  /-- `SP` counts at most 16 entries (R25) -/
  spLegal : s.sp.toNat ≤ 16
  /-- no rule writes more than 0x10FE to `PC` (R24, R95) -/
  pcReachable : s.pc.toNat ≤ 0x10FE
  /-- a pushed return address is at most 0x1000 (R114) -/
  returnReachable : ∀ k : Fin 16, k.val < s.sp.toNat → s.stack[k.val].toNat ≤ 0x1000
  /-- while awaiting a key `PC` holds the address of the `FX0A` word (R24, R212) -/
  waitsAtInstr : ∀ x, s.wait = .awaitingKey x → fetchWord s = some (encode (.ldVxK x))
  /-- the timer ticks delivered are those due before the last CPU tick (R253) -/
  onSchedule : s.driver.timerTicks = ticksBeforeCpuTick s.cfg.cpuHz s.driver.cpuTicks
  /-- the error record: `pc` is `PC`, `word` is the word there or none when the fetch failed, `addr`
  is for `addressOutOfBounds` only (R247) -/
  recordPrecise : ∀ e, s.status = .halted e →
    e.pc = s.pc ∧ e.word = fetchWord s ∧ (e.addr.isSome = true ↔ e.kind = .addressOutOfBounds) ∧
      e.kind ≠ .romTooLarge ∧ s.wait = .running ∧ s.displayUpdated = false

end Sys2Proof.Machine
end

