-- ==== Sys2Proof/Certificates/Slice0/Obligations.lean ====
section
/-!
DEFINITION. The statements for the provers, from the numbered rules of spec/ (OBLIGATIONS.json holds
the rule and the sentence of each). A statement about a next state names the parts of the state that
may change; every other part, each byte of memory and each pixel among them, is unchanged.
-/

open Sys2Proof Sys2Proof.Machine

/-! ### Encoding (spec/30_encoding.md) -/

/-- R70, R73-R75: decoding the word of an instruction gives the instruction back, whatever its fields. -/
def Obligations.DecodeOfEncodeIsSelf : Prop :=
  ∀ i : Instr, decode (encode i) = some i

/-- R77: an instruction is read from one word only; no bit of a legal word is a don't-care. -/
def Obligations.EncodeOfDecodeIsSelf : Prop :=
  ∀ (w : Word) (i : Instr), decode w = some i → encode i = w

/-- R74-R76: a word is an instruction exactly when it matches a row of the opcode map. -/
def Obligations.DecodeAcceptsExactlyTheOpcodeMap : Prop :=
  ∀ w : Word, (decode w).isSome = true ↔ ∃ r ∈ opcodeMap, w &&& r.mask = r.pattern

/-- R74: no word matches two rows of the opcode map. -/
def Obligations.OpcodeMapRowsAreDisjoint : Prop :=
  ∀ (w : Word) (r r' : OpcodeRow), r ∈ opcodeMap → r' ∈ opcodeMap →
    w &&& r.mask = r.pattern → w &&& r'.mask = r'.pattern → r = r'

/-- The words of 95_test_vectors.md section 2.1. -/
def Obligations.SpecDecodeVectors : Prop :=
  decode 0x0000 = none ∧ decode 0x00E0 = some .cls ∧ decode 0x00E1 = none ∧
  decode 0x00EE = some .ret ∧ decode 0x0123 = none ∧ decode 0x1000 = some (.jp 0x000) ∧
  decode 0x5120 = some (.seReg 1 2) ∧ decode 0x5121 = none ∧ decode 0x8120 = some (.ldReg 1 2) ∧
  decode 0x8127 = some (.subn 1 2) ∧ decode 0x8128 = none ∧ decode 0x8129 = none ∧
  decode 0x812F = none ∧ decode 0x812E = some (.shl 1 2) ∧ decode 0x9120 = some (.sneReg 1 2) ∧
  decode 0x9121 = none ∧ decode 0xD000 = some (.drw 0 0 0) ∧ decode 0xE19E = some (.skp 1) ∧
  decode 0xE19F = none ∧ decode 0xF10A = some (.ldVxK 1) ∧ decode 0xF1FF = none ∧
  decode 0xFFFF = none

/-! ### The cycle and the step (spec/40_dispatch_cycle.md, spec/60_exceptions.md) -/

/-- R90, R249: a cycle that fetches ends in the fetch error of `PC >= 0xFFF`, else in the decode
error, else in the execution of the decoded instruction. -/
def Obligations.CycleFetchesDecodesExecutes : Prop :=
  ∀ s : State, s.fetches →
    (0xFFF ≤ s.pc.toNat → cpuCycle s = .next { s with
      displayUpdated := false
      status := .halted { kind := .addressOutOfBounds, pc := s.pc, word := none,
                          addr := some s.pc.toNat } }) ∧
    (∀ w, s.pc.toNat ≤ 0xFFE → w = joinBytes (s.byteAt s.pc.toNat) (s.byteAt (s.pc.toNat + 1)) →
      (decode w = none → cpuCycle s = .next { s with
        displayUpdated := false
        status := .halted { kind := .unknownOpcode, pc := s.pc, word := some w, addr := none } }) ∧
      (∀ i, decode w = some i → cpuCycle s = exec i { s with displayUpdated := false }))

/-- R55, R56: the fetched word is the byte at `PC` times 256 plus the byte at `PC + 1`, and a fetch
at 0xFFF or above is rejected. -/
def Obligations.FetchIsBigEndianWithinMemory : Prop :=
  ∀ s : State,
    (0xFFF ≤ s.pc.toNat → fetchWord s = none) ∧
    (s.pc.toNat ≤ 0xFFE → ∃ w, fetchWord s = some w ∧
      w.toNat = (s.byteAt s.pc.toNat).toNat * 256 + (s.byteAt (s.pc.toNat + 1)).toNat)

/-- R90, R253 (log 5): a step whose bytes at `PC` decode to `i` is `exec i` of a state that differs
from the step's state only in the timers, the driver's position and `display_updated`. -/
def Obligations.StepRunsTheDecodedInstruction : Prop :=
  ∀ (s : State) (i : Instr), s.fetches → s.fetchesInstr i →
    ∃ u, step s = exec i u ∧
      u.dt.toNat = s.dt.toNat - s.dueTicks ∧ u.st.toNat = s.st.toNat - s.dueTicks ∧
      u.driver.cpuTicks = s.driver.cpuTicks + 1 ∧
      u.driver.timerTicks = s.driver.timerTicks + s.dueTicks ∧ u.displayUpdated = false ∧
      onlyChanges (fun p => p = .dt ∨ p = .st ∨ p = .driver ∨ p = .displayUpdated) s u

/-- R253 (log 5): a step is the timer ticks due before the next CPU tick, one by one, then that CPU
tick, each as the event it is. -/
def Obligations.StepIsItsEventSequence : Prop :=
  ∀ s : State, step s = runEvents (List.replicate s.dueTicks .timerTick ++ [.cpuTick]) s

/-- R253: timer tick `k` is delivered before CPU tick `j` exactly when `H k < 60 j`; on a tie the CPU
tick is first. -/
def Obligations.TimerTickPrecedesCpuTickByTime : Prop :=
  ∀ hz j k : Nat, 0 < hz → 0 < j → 0 < k →
    (k ≤ ticksBeforeCpuTick hz j ↔ hz * k < 60 * j)

/-- R91, R248: once halted, neither a CPU tick nor a timer tick nor a step changes anything. -/
def Obligations.HaltedIsPermanent : Prop :=
  ∀ (s : State) (e : ErrorRecord), s.status = .halted e →
    applyEvent s .cpuTick = .next s ∧ applyEvent s .timerTick = .next s ∧ cpuCycle s = .next s ∧
      step s = .next s

/-- R96, R97, R247: an instruction that raises an error changes `status` alone, and the record holds
`pc0` and the instruction's word. -/
def Obligations.ErrorChangesOnlyStatus : Prop :=
  ∀ (i : Instr) (s t : State) (e : ErrorRecord), s.isActive → exec i s = .next t →
    t.status = .halted e →
      t = { s with status := .halted e } ∧ e.pc = s.pc ∧ e.word = some (encode i) ∧
        (e.addr.isSome = true ↔ e.kind = .addressOutOfBounds)

/-- R252: a timer tick decrements each nonzero timer by one and changes nothing else (the driver
counts it, log 5). -/
def Obligations.TimerTickCountsDown : Prop :=
  ∀ s : State, s.isActive → ∃ t, applyEvent s .timerTick = .next t ∧
    t.dt.toNat = s.dt.toNat - 1 ∧ t.st.toNat = s.st.toNat - 1 ∧
    onlyChanges (fun p => p = .dt ∨ p = .st ∨ p = .driver) s t

/-- R218, R39: the host's setter writes one key flag and nothing else. That it does so on a halted core
too is the model's choice (log 17). -/
def Obligations.KeySetWritesOneFlag : Prop :=
  ∀ (k : Nibble) (p : Bool) (s : State), ∃ t, applyEvent s (.keySet k p) = .next t ∧
    t.key k = p ∧ onlyChanges (fun q => q = .key k) s t

/-! ### Control flow (spec/41_control_flow.md) -/

/-- R112: `00EE` pops the return address into `PC`, or halts with `StackUnderflow` on an empty stack. -/
def Obligations.ReturnPopsTheStack : Prop :=
  encode .ret = 0x00EE ∧ ∀ s : State,
    (∀ h : 0 < s.sp.toNat ∧ s.sp.toNat ≤ 16, ∃ t, exec .ret s = .next t ∧
      t.pc = s.stack[s.sp.toNat - 1] ∧ t.sp.toNat = s.sp.toNat - 1 ∧
      onlyChanges (fun p => p = .pc ∨ p = .sp) s t) ∧
    (s.sp = 0 → exec .ret s = .next (s.haltedBy .stackUnderflow .ret none))

/-- R113: `1NNN` writes `NNN` to `PC` and nothing else. -/
def Obligations.JumpWritesPc : Prop :=
  ∀ (nnn : Addr12) (s : State), encode (.jp nnn) = formatA 0x1 nnn ∧
    ∃ t, exec (.jp nnn) s = .next t ∧ t.pc.toNat = nnn.toNat ∧
      onlyChanges (fun p => p = .pc) s t

/-- R114: `2NNN` pushes `pc0 + 2` and jumps, or halts with `StackOverflow` when 16 entries are on the
stack. -/
def Obligations.CallPushesAndJumps : Prop :=
  ∀ (nnn : Addr12) (s : State), encode (.call nnn) = formatA 0x2 nnn ∧
    (∀ h : s.sp.toNat < 16, ∃ t, exec (.call nnn) s = .next t ∧
      t.stack[s.sp.toNat] = s.pc + 2 ∧ t.sp.toNat = s.sp.toNat + 1 ∧ t.pc.toNat = nnn.toNat ∧
      onlyChanges (fun p => p = .pc ∨ p = .sp ∨ p = .stack ⟨s.sp.toNat, h⟩) s t) ∧
    (s.sp = 16 → exec (.call nnn) s = .next (s.haltedBy .stackOverflow (.call nnn) none))

/-- R110-R112, R114: a return right after a call goes to the word after the call with the stack as
deep as before. -/
def Obligations.CallThenReturnComesBack : Prop :=
  ∀ (nnn : Addr12) (s : State) (h : s.sp.toNat < 16), ∃ t u,
    exec (.call nnn) s = .next t ∧ exec .ret t = .next u ∧
      u.pc = s.pc + 2 ∧ onlyChanges (fun p => p = .pc ∨ p = .stack ⟨s.sp.toNat, h⟩) s u

/-- R115, R116: `3XNN` and `4XNN` skip on `VX = NN` and `VX != NN`. -/
def Obligations.SkipsOnImmediate : Prop :=
  ∀ (x : Nibble) (nn : Byte) (s : State),
    encode (.seImm x nn) = formatRI 0x3 x nn ∧ encode (.sneImm x nn) = formatRI 0x4 x nn ∧
    (∃ t, exec (.seImm x nn) s = .next t ∧
      t.pc = (if s.reg x = nn then s.pc + 4 else s.pc + 2) ∧ onlyChanges (fun p => p = .pc) s t) ∧
    (∃ t, exec (.sneImm x nn) s = .next t ∧
      t.pc = (if s.reg x = nn then s.pc + 2 else s.pc + 4) ∧ onlyChanges (fun p => p = .pc) s t)

/-- R117, R118: `5XY0` and `9XY0` skip on `VX = VY` and `VX != VY`. -/
def Obligations.SkipsOnRegisters : Prop :=
  ∀ (x y : Nibble) (s : State),
    encode (.seReg x y) = formatRR 0x5 x y 0x0 ∧ encode (.sneReg x y) = formatRR 0x9 x y 0x0 ∧
    (∃ t, exec (.seReg x y) s = .next t ∧
      t.pc = (if s.reg x = s.reg y then s.pc + 4 else s.pc + 2) ∧
      onlyChanges (fun p => p = .pc) s t) ∧
    (∃ t, exec (.sneReg x y) s = .next t ∧
      t.pc = (if s.reg x = s.reg y then s.pc + 2 else s.pc + 4) ∧
      onlyChanges (fun p => p = .pc) s t)

/-- R119: `BNNN` jumps to the exact sum of `NNN` and `V0`, not masked. -/
def Obligations.IndexedJumpIsExact : Prop :=
  ∀ (nnn : Addr12) (s : State), encode (.jpV0 nnn) = formatA 0xB nnn ∧
    ∃ t, exec (.jpV0 nnn) s = .next t ∧ t.pc.toNat = nnn.toNat + (s.reg 0).toNat ∧
      onlyChanges (fun p => p = .pc) s t

/-! ### Arithmetic and logic (spec/42_alu.md) -/

/-- R141: `6XNN` loads `NN`. -/
def Obligations.LoadImmediate : Prop :=
  ∀ (x : Nibble) (nn : Byte) (s : State), encode (.ldImm x nn) = formatRI 0x6 x nn ∧
    ∃ t, exec (.ldImm x nn) s = .next t ∧ t.reg x = nn ∧ t.pc = s.pc + 2 ∧
      onlyChanges (fun p => p = .reg x ∨ p = .pc) s t

/-- R142: `7XNN` adds modulo 256 and leaves VF alone unless it is the destination. -/
def Obligations.AddImmediateWraps : Prop :=
  ∀ (x : Nibble) (nn : Byte) (s : State), encode (.addImm x nn) = formatRI 0x7 x nn ∧
    ∃ t, exec (.addImm x nn) s = .next t ∧
      (t.reg x).toNat = ((s.reg x).toNat + nn.toNat) % 256 ∧ t.pc = s.pc + 2 ∧
      onlyChanges (fun p => p = .reg x ∨ p = .pc) s t

/-- R143-R146: `8XY0`-`8XY3` assign, OR, AND and XOR bit by bit and leave VF alone unless it is the
destination. -/
def Obligations.AssignAndLogic : Prop :=
  ∀ (x y : Nibble) (s : State),
    encode (.ldReg x y) = formatRR 0x8 x y 0x0 ∧ encode (.orReg x y) = formatRR 0x8 x y 0x1 ∧
    encode (.andReg x y) = formatRR 0x8 x y 0x2 ∧ encode (.xorReg x y) = formatRR 0x8 x y 0x3 ∧
    (∃ t, exec (.ldReg x y) s = .next t ∧ t.reg x = s.reg y ∧ t.pc = s.pc + 2 ∧
      onlyChanges (fun p => p = .reg x ∨ p = .pc) s t) ∧
    (∃ t, exec (.orReg x y) s = .next t ∧
      (∀ k, k < 8 → (t.reg x).getLsbD k = ((s.reg x).getLsbD k || (s.reg y).getLsbD k)) ∧
      t.pc = s.pc + 2 ∧ onlyChanges (fun p => p = .reg x ∨ p = .pc) s t) ∧
    (∃ t, exec (.andReg x y) s = .next t ∧
      (∀ k, k < 8 → (t.reg x).getLsbD k = ((s.reg x).getLsbD k && (s.reg y).getLsbD k)) ∧
      t.pc = s.pc + 2 ∧ onlyChanges (fun p => p = .reg x ∨ p = .pc) s t) ∧
    (∃ t, exec (.xorReg x y) s = .next t ∧
      (∀ k, k < 8 →
        (t.reg x).getLsbD k = Bool.xor ((s.reg x).getLsbD k) ((s.reg y).getLsbD k)) ∧
      t.pc = s.pc + 2 ∧ onlyChanges (fun p => p = .reg x ∨ p = .pc) s t)

/-- R147, R140: `8XY4` adds modulo 256 with the carry in VF; with `X = F` the flag remains. -/
def Obligations.AddSetsCarry : Prop :=
  ∀ (x y : Nibble) (s : State), encode (.addReg x y) = formatRR 0x8 x y 0x4 ∧
    ∃ t, exec (.addReg x y) s = .next t ∧
      t.reg 0xF = (if 255 < (s.reg x).toNat + (s.reg y).toNat then 1 else 0) ∧
      (x ≠ 0xF → (t.reg x).toNat = ((s.reg x).toNat + (s.reg y).toNat) % 256) ∧
      t.pc = s.pc + 2 ∧ onlyChanges (fun p => p = .reg x ∨ p = .reg 0xF ∨ p = .pc) s t

/-- R148, R140: `8XY5` subtracts modulo 256, VF = 1 when no borrow occurs. -/
def Obligations.SubtractSetsNotBorrow : Prop :=
  ∀ (x y : Nibble) (s : State), encode (.subReg x y) = formatRR 0x8 x y 0x5 ∧
    ∃ t, exec (.subReg x y) s = .next t ∧
      t.reg 0xF = (if (s.reg y).toNat ≤ (s.reg x).toNat then 1 else 0) ∧
      (x ≠ 0xF → (t.reg x).toNat = ((s.reg x).toNat + 256 - (s.reg y).toNat) % 256) ∧
      t.pc = s.pc + 2 ∧ onlyChanges (fun p => p = .reg x ∨ p = .reg 0xF ∨ p = .pc) s t

/-- R150, R140: `8XY7` subtracts the other way round, VF = 1 when no borrow occurs. -/
def Obligations.ReverseSubtractSetsNotBorrow : Prop :=
  ∀ (x y : Nibble) (s : State), encode (.subn x y) = formatRR 0x8 x y 0x7 ∧
    ∃ t, exec (.subn x y) s = .next t ∧
      t.reg 0xF = (if (s.reg x).toNat ≤ (s.reg y).toNat then 1 else 0) ∧
      (x ≠ 0xF → (t.reg x).toNat = ((s.reg y).toNat + 256 - (s.reg x).toNat) % 256) ∧
      t.pc = s.pc + 2 ∧ onlyChanges (fun p => p = .reg x ∨ p = .reg 0xF ∨ p = .pc) s t

/-- R149, R140: `8XY6` shifts right by one, the source chosen by `shift_y_quirk`, bit 0 into VF. -/
def Obligations.ShiftRight : Prop :=
  ∀ (x y : Nibble) (s : State) (src : Byte),
    src = (if s.cfg.shiftYQuirk = true then s.reg y else s.reg x) →
    encode (.shr x y) = formatRR 0x8 x y 0x6 ∧
    ∃ t, exec (.shr x y) s = .next t ∧ (t.reg 0xF).toNat = src.toNat % 2 ∧
      (x ≠ 0xF → (t.reg x).toNat = src.toNat / 2) ∧ t.pc = s.pc + 2 ∧
      onlyChanges (fun p => p = .reg x ∨ p = .reg 0xF ∨ p = .pc) s t

/-- R151, R140: `8XYE` shifts left by one, the source chosen by `shift_y_quirk`, bit 7 into VF. -/
def Obligations.ShiftLeft : Prop :=
  ∀ (x y : Nibble) (s : State) (src : Byte),
    src = (if s.cfg.shiftYQuirk = true then s.reg y else s.reg x) →
    encode (.shl x y) = formatRR 0x8 x y 0xE ∧
    ∃ t, exec (.shl x y) s = .next t ∧ (t.reg 0xF).toNat = src.toNat / 128 ∧
      (x ≠ 0xF → (t.reg x).toNat = src.toNat * 2 % 256) ∧ t.pc = s.pc + 2 ∧
      onlyChanges (fun p => p = .reg x ∨ p = .reg 0xF ∨ p = .pc) s t

/-- R152 (log 4): `CXNN` ANDs the byte drawn for this execution with `NN`; the byte is free, and the
draw is counted in the model's own field. -/
def Obligations.RandomByteIsMasked : Prop :=
  ∀ (x : Nibble) (nn : Byte) (s : State), encode (.rnd x nn) = formatRI 0xC x nn ∧
    ∃ t, exec (.rnd x nn) s = .next t ∧
      (∀ k, k < 8 →
        (t.reg x).getLsbD k = ((Config.randByte s.draws).getLsbD k && nn.getLsbD k)) ∧
      t.draws = s.draws + 1 ∧ t.pc = s.pc + 2 ∧
      onlyChanges (fun p => p = .reg x ∨ p = .pc ∨ p = .draws) s t

/-! ### Index register and memory (spec/43_index_memory.md, spec/20_memory.md) -/

/-- R170: `ANNN` loads `I`. -/
def Obligations.LoadIndex : Prop :=
  ∀ (nnn : Addr12) (s : State), encode (.ldI nnn) = formatA 0xA nnn ∧
    ∃ t, exec (.ldI nnn) s = .next t ∧ t.i.toNat = nnn.toNat ∧ t.pc = s.pc + 2 ∧
      onlyChanges (fun p => p = .i ∨ p = .pc) s t

/-- R171: `FX1E` adds `VX` to `I` modulo 65536; VF is not written. -/
def Obligations.AddToIndexWraps : Prop :=
  ∀ (x : Nibble) (s : State), encode (.addIVx x) = formatRI 0xF x 0x1E ∧
    ∃ t, exec (.addIVx x) s = .next t ∧
      t.i.toNat = (s.i.toNat + (s.reg x).toNat) % 65536 ∧ t.pc = s.pc + 2 ∧
      onlyChanges (fun p => p = .i ∨ p = .pc) s t

/-- R172: `FX29` points `I` at the glyph of the digit `VX`, or halts with `OperandOutOfRange`; the
address holds under the constraint of R34 on `FONT_BASE`. -/
def Obligations.IndexPointsAtGlyph : Prop :=
  ∀ (x : Nibble) (s : State), encode (.ldFVx x) = formatRI 0xF x 0x29 ∧
    (s.cfg.wf = true → (s.reg x).toNat ≤ 0xF → ∃ t, exec (.ldFVx x) s = .next t ∧
      t.i.toNat = s.cfg.fontBase.toNat + 5 * (s.reg x).toNat ∧ t.pc = s.pc + 2 ∧
      onlyChanges (fun p => p = .i ∨ p = .pc) s t) ∧
    (0xF < (s.reg x).toNat → exec (.ldFVx x) s =
        .next (s.haltedBy .operandOutOfRange (.ldFVx x) none))

/-- R173: `FX33` stores the hundreds, tens and ones of `VX` at `I`, `I + 1`, `I + 2`, or halts with
the lowest address out of range and no byte written. -/
def Obligations.DecimalDigitsStored : Prop :=
  ∀ (x : Nibble) (s : State), encode (.ldBVx x) = formatRI 0xF x 0x33 ∧
    (s.i.toNat + 2 ≤ 0xFFF → ∃ t, exec (.ldBVx x) s = .next t ∧
      (t.byteAt s.i.toNat).toNat = (s.reg x).toNat / 100 ∧
      (t.byteAt (s.i.toNat + 1)).toNat = (s.reg x).toNat / 10 % 10 ∧
      (t.byteAt (s.i.toNat + 2)).toNat = (s.reg x).toNat % 10 ∧ t.pc = s.pc + 2 ∧
      onlyChanges (fun p => p = .pc ∨ p = .byte s.i.toNat ∨ p = .byte (s.i.toNat + 1) ∨
        p = .byte (s.i.toNat + 2)) s t) ∧
    (0xFFF < s.i.toNat + 2 → exec (.ldBVx x) s =
        .next (s.haltedBy .addressOutOfBounds (.ldBVx x) (some (max s.i.toNat 0x1000))))

/-- R174: `FX55` stores `V0` to `VX` from `I` on, `I` incremented under the quirk alone, or halts with
the lowest address out of range and no byte written. -/
def Obligations.RegistersStored : Prop :=
  ∀ (x : Nibble) (s : State), encode (.ldMemVx x) = formatRI 0xF x 0x55 ∧
    (s.i.toNat + x.toNat ≤ 0xFFF → ∃ t, exec (.ldMemVx x) s = .next t ∧
      (∀ k : Nibble, k.toNat ≤ x.toNat → t.byteAt (s.i.toNat + k.toNat) = s.reg k) ∧
      t.i.toNat = (if s.cfg.storeLoadQuirk = true then s.i.toNat + x.toNat + 1 else s.i.toNat) ∧
      t.pc = s.pc + 2 ∧
      onlyChanges (fun p => p = .pc ∨ (p = .i ∧ s.cfg.storeLoadQuirk = true) ∨
        ∃ k, k ≤ x.toNat ∧ p = .byte (s.i.toNat + k)) s t) ∧
    (0xFFF < s.i.toNat + x.toNat → exec (.ldMemVx x) s =
        .next (s.haltedBy .addressOutOfBounds (.ldMemVx x) (some (max s.i.toNat 0x1000))))

/-- R175: `FX65` loads `V0` to `VX` from `I` on, `I` incremented under the quirk alone, or halts with
the lowest address out of range and no register written. -/
def Obligations.RegistersLoaded : Prop :=
  ∀ (x : Nibble) (s : State), encode (.ldVxMem x) = formatRI 0xF x 0x65 ∧
    (s.i.toNat + x.toNat ≤ 0xFFF → ∃ t, exec (.ldVxMem x) s = .next t ∧
      (∀ k : Nibble, k.toNat ≤ x.toNat → t.reg k = s.byteAt (s.i.toNat + k.toNat)) ∧
      t.i.toNat = (if s.cfg.storeLoadQuirk = true then s.i.toNat + x.toNat + 1 else s.i.toNat) ∧
      t.pc = s.pc + 2 ∧
      onlyChanges (fun p => p = .pc ∨ (p = .i ∧ s.cfg.storeLoadQuirk = true) ∨
        ∃ k : Nibble, k.toNat ≤ x.toNat ∧ p = .reg k) s t) ∧
    (0xFFF < s.i.toNat + x.toNat → exec (.ldVxMem x) s =
        .next (s.haltedBy .addressOutOfBounds (.ldVxMem x) (some (max s.i.toNat 0x1000))))

/-- R62, R174, R175: registers stored with `FX55` are what a later `FX65` at the same `I` loads,
whatever the registers hold in between. -/
def Obligations.StoredRegistersLoadBack : Prop :=
  ∀ (x : Nibble) (s t u : State), s.i.toNat + x.toNat ≤ 0xFFF →
    exec (.ldMemVx x) s = .next t → u.mem = t.mem → u.cfg = t.cfg → u.i = s.i →
      ∃ r, exec (.ldVxMem x) u = .next r ∧ ∀ k : Nibble, k.toNat ≤ x.toNat → r.reg k = s.reg k

/-! ### Display (spec/44_display.md) -/

/-- R191: `00E0` turns every pixel off and sets `display_updated`. -/
def Obligations.ClearTurnsAllPixelsOff : Prop :=
  encode .cls = 0x00E0 ∧ ∀ s : State, ∃ t, exec .cls s = .next t ∧
    (∀ y x, t.pixel y x = false) ∧ t.displayUpdated = true ∧ t.pc = s.pc + 2 ∧
    onlyChanges (fun p => p = .pc ∨ p = .displayUpdated ∨ ∃ y x, p = .pixel y x) s t

/-- R192, R193: `DXYN` inverts exactly the pixels under a set sprite bit, coordinates wrapping, and VF
is 1 exactly when one of them was on; out of range it halts with nothing drawn. -/
def Obligations.DrawInvertsTheSpritePixels : Prop :=
  ∀ (x y n : Nibble) (s : State), encode (.drw x y n) = formatRR 0xD x y n ∧
    (n = 0 ∨ s.i.toNat + n.toNat - 1 ≤ 0xFFF → ∃ t, exec (.drw x y n) s = .next t ∧
      (∀ py px, s.spriteHits x y n py px → t.pixel py px = !s.pixel py px) ∧
      ((∃ py px, s.spriteHits x y n py px ∧ s.pixel py px = true) → t.reg 0xF = 1) ∧
      ((∀ py px, s.spriteHits x y n py px → s.pixel py px = false) → t.reg 0xF = 0) ∧
      t.displayUpdated = true ∧ t.pc = s.pc + 2 ∧
      onlyChanges (fun p => p = .pc ∨ p = .reg 0xF ∨ p = .displayUpdated ∨
        ∃ py px, p = .pixel py px ∧ s.spriteHits x y n py px) s t) ∧
    (n ≠ 0 → 0xFFF < s.i.toNat + n.toNat - 1 → exec (.drw x y n) s =
        .next (s.haltedBy .addressOutOfBounds (.drw x y n) (some (max s.i.toNat 0x1000))))

/-- R192, R193 (restricted by 90_conflicts.md C5; log 16): drawing the same sprite twice at the same
place restores the display; the second draw reports a collision exactly when a pixel under a set sprite
bit was off before the first. -/
def Obligations.DrawTwiceRestoresTheDisplay : Prop :=
  ∀ (x y n : Nibble) (s t : State), x ≠ 0xF → y ≠ 0xF →
    n = 0 ∨ s.i.toNat + n.toNat - 1 ≤ 0xFFF → exec (.drw x y n) s = .next t →
      ∃ u, exec (.drw x y n) t = .next u ∧ u.fb = s.fb ∧
        ((∃ py px, s.spriteHits x y n py px ∧ s.pixel py px = false) → u.reg 0xF = 1) ∧
        ((∀ py px, s.spriteHits x y n py px → s.pixel py px = true) → u.reg 0xF = 0)

/-- The inference at the end of R193, "the second draw sets VF = 1 if the sprite has a bit set", without
a condition on the display. Expected to FAIL: where every pixel under a set sprite bit is on before the
first draw, the second finds them all off, and R192 gives VF = 0 (log 16). -/
def Obligations.SecondDrawAlwaysCollides : Prop :=
  ∀ (x y n : Nibble) (s t u : State), x ≠ 0xF → y ≠ 0xF →
    exec (.drw x y n) s = .next t → exec (.drw x y n) t = .next u → u.isActive →
      (∃ py px, s.spriteHits x y n py px) → u.reg 0xF = 1

/-! ### Timers and input (spec/45_timers_input.md) -/

/-- R213, R214: `EX9E` and `EXA1` skip on the flag of key `VX`, or halt with `OperandOutOfRange`. -/
def Obligations.SkipsOnKey : Prop :=
  ∀ (x k : Nibble) (s : State),
    encode (.skp x) = formatRI 0xE x 0x9E ∧ encode (.sknp x) = formatRI 0xE x 0xA1 ∧
    ((s.reg x).toNat = k.toNat →
      (∃ t, exec (.skp x) s = .next t ∧
        t.pc = (if s.key k = true then s.pc + 4 else s.pc + 2) ∧
        onlyChanges (fun p => p = .pc) s t) ∧
      (∃ t, exec (.sknp x) s = .next t ∧
        t.pc = (if s.key k = true then s.pc + 2 else s.pc + 4) ∧
        onlyChanges (fun p => p = .pc) s t)) ∧
    (0xF < (s.reg x).toNat →
      exec (.skp x) s = .next (s.haltedBy .operandOutOfRange (.skp x) none) ∧
      exec (.sknp x) s = .next (s.haltedBy .operandOutOfRange (.sknp x) none))

/-- R215-R217, R255: `FX07`, `FX15` and `FX18` copy a timer to `VX` or `VX` to a timer, and
`tone_active` follows `ST` at once. -/
def Obligations.TimerTransfers : Prop :=
  ∀ (x : Nibble) (s : State),
    encode (.ldVxDt x) = formatRI 0xF x 0x07 ∧ encode (.ldDtVx x) = formatRI 0xF x 0x15 ∧
    encode (.ldStVx x) = formatRI 0xF x 0x18 ∧
    (∃ t, exec (.ldVxDt x) s = .next t ∧ t.reg x = s.dt ∧ t.pc = s.pc + 2 ∧
      onlyChanges (fun p => p = .reg x ∨ p = .pc) s t) ∧
    (∃ t, exec (.ldDtVx x) s = .next t ∧ t.dt = s.reg x ∧ t.pc = s.pc + 2 ∧
      onlyChanges (fun p => p = .dt ∨ p = .pc) s t) ∧
    (∃ t, exec (.ldStVx x) s = .next t ∧ t.st = s.reg x ∧ t.pc = s.pc + 2 ∧
      (t.toneActive = true ↔ (s.reg x).toNat ≠ 0) ∧
      onlyChanges (fun p => p = .st ∨ p = .pc) s t)

/-- R211: `FX0A` enters the wait, does not write `PC` and does not sample the keys. -/
def Obligations.KeyWaitBegins : Prop :=
  ∀ (x : Nibble) (s : State), encode (.ldVxK x) = formatRI 0xF x 0x0A ∧
    ∃ t, exec (.ldVxK x) s = .next t ∧ t.wait = .awaitingKey x ∧
      onlyChanges (fun p => p = .wait) s t

/-- R212, R92: a cycle while awaiting a key stores the least pressed key, moves past the `FX0A` word
and ends the wait; with no key pressed it changes nothing; it fetches nothing and raises nothing. -/
def Obligations.KeyWaitEndsWithLeastKey : Prop :=
  ∀ (x : Nibble) (s : State), s.awaits x →
    (∀ k : Nibble, s.key k = true → (∀ j : Nibble, j.toNat < k.toNat → s.key j = false) →
      ∃ t, cpuCycle s = .next t ∧ (t.reg x).toNat = k.toNat ∧ t.pc = s.pc + 2 ∧
        t.wait = .running ∧ t.displayUpdated = false ∧
        onlyChanges (fun p => p = .reg x ∨ p = .pc ∨ p = .wait ∨ p = .displayUpdated) s t) ∧
    ((∀ k : Nibble, s.key k = false) → cpuCycle s = .next { s with displayUpdated := false })

/-! ### Construction and invariants (spec/70_reset_and_hazards.md, spec/10_state.md) -/

/-- R270-R272, R34, R37: what `init` constructs for every admissible configuration and ROM; a longer
ROM gives no state. -/
def Obligations.InitConstructsTheState : Prop :=
  ∀ (rom : List Byte) (cfg : Config), cfg.wf = true →
    (3584 < rom.length → init rom cfg = .error .romTooLarge) ∧
    (rom.length ≤ 3584 → ∃ s, init rom cfg = .ok s ∧
      (∀ k : Fin 80, s.byteAt (cfg.fontBase.toNat + k.val) = cfg.fontData[k.val]) ∧
      (∀ k (h : k < rom.length), s.byteAt (0x200 + k) = rom[k]) ∧
      (∀ a, (a < cfg.fontBase.toNat ∨ cfg.fontBase.toNat + 80 ≤ a) →
        (a < 0x200 ∨ 0x200 + rom.length ≤ a) → s.byteAt a = 0) ∧
      (∀ x, s.reg x = 0) ∧ s.i = 0 ∧ s.pc = 0x200 ∧ s.sp = 0 ∧ (∀ k : Fin 16, s.stack[k.val] = 0) ∧
      s.dt = 0 ∧ s.st = 0 ∧ (∀ y x, s.pixel y x = false) ∧ (∀ k, s.key k = false) ∧
      s.wait = .running ∧ s.status = .active ∧ s.toneActive = false ∧ s.cfg = cfg)

/-- R37: the invariant holds after reset, which is `init` with an empty ROM (`init_empty_rom`). Its
schedule clause rests on the model's driver counts at reset and its step (log 9, log 5), its memory
clause on the model's form of memory (log 8). -/
def Obligations.ResetMeetsTheInvariant : Prop := State.reset.Inv

/-- R37, R270: the invariant holds after `init`, for every configuration and ROM. Its schedule clause
rests on the model's driver counts after construction and its step (log 9, log 5), its memory clause on
the model's form of memory (log 8). -/
def Obligations.InitMeetsTheInvariant : Prop :=
  ∀ (rom : List Byte) (cfg : Config) (s : State), init rom cfg = .ok s → s.Inv

/-- R24, R25, R31, R114, R212, R247, R253: every step keeps the invariant. Its memory clause is about the
model's form of memory (log 8), its schedule clause about the model's step (log 5). -/
def Obligations.StepKeepsTheInvariant : Prop :=
  ∀ s t : State, s.Inv → step s = .next t → t.Inv

/-- R13, R90, R248 (log 1, log 10): from a state that meets the invariant a step always answers a next
state; every instruction completes or enters the error its rule names. -/
def Obligations.StepNeverStops : Prop :=
  ∀ s : State, s.Inv → ∃ t, step s = .next t

/-- R90-R92, R252, R218: no event in any order takes the machine out of the invariant's part that does
not speak of the schedule: `SP` legal, `PC` at most 0x10FE, memory canonical (log 8). -/
def Obligations.AnyEventOrderKeepsTheCoreLegal : Prop :=
  ∀ (es : List Event) (s t : State), s.Inv → runEvents es s = .next t →
    Memory.wf t.cfg t.mem ∧ t.sp.toNat ≤ 16 ∧ t.pc.toNat ≤ 0x10FE

/-! ### Whole-machine rules -/

/-- R33, R41: no step writes the configuration or the keys. -/
def Obligations.StepNeverWritesConfigOrKeys : Prop :=
  ∀ s t : State, step s = .next t → t.cfg = s.cfg ∧ t.keys = s.keys

/-- R58, R66: only `FX33` and `FX55` change memory. -/
def Obligations.OnlyStoresWriteMemory : Prop :=
  ∀ (i : Instr) (s t : State), (∀ x, i ≠ .ldBVx x) → (∀ x, i ≠ .ldMemVx x) →
    exec i s = .next t → t.mem = s.mem

/-- R25, R26: only `2NNN` and `00EE` change `SP`, and only `2NNN` the stack entries. -/
def Obligations.OnlyCallAndReturnTouchTheStack : Prop :=
  ∀ (i : Instr) (s t : State), exec i s = .next t → (∀ nnn, i ≠ .call nnn) →
    t.stack = s.stack ∧ (i ≠ .ret → t.sp = s.sp)

/-- R29: only `00E0` and `DXYN` change the display. -/
def Obligations.OnlyDisplayInstructionsTouchTheDisplay : Prop :=
  ∀ (i : Instr) (s t : State), exec i s = .next t → i ≠ .cls → (∀ x y n, i ≠ .drw x y n) →
    t.fb = s.fb ∧ t.displayUpdated = s.displayUpdated

/-- R40, R102: after a cycle `display_updated` is true exactly when the cycle completed `00E0` or
`DXYN` without error. -/
def Obligations.DisplayUpdatedTellsADraw : Prop :=
  ∀ s t : State, s.isActive → cpuCycle s = .next t →
    (t.displayUpdated = true ↔
      t.isActive ∧ s.fetches ∧ ∃ i, s.fetchesInstr i ∧ (i = .cls ∨ ∃ x y n, i = .drw x y n))

/-- R31: only `FX0A` enters the wait. -/
def Obligations.OnlyKeyWaitInstructionWaits : Prop :=
  ∀ (i : Instr) (s t : State), exec i s = .next t → (∀ x, i ≠ .ldVxK x) → t.wait = s.wait

/-- R35: VF changes only under the six instructions that write it as a flag and those that name it as
their destination. -/
def Obligations.FlagWritersAreTheListedOnes : Prop :=
  ∀ (i : Instr) (s t : State), exec i s = .next t → t.reg 0xF ≠ s.reg 0xF →
    (∃ x y, i = .addReg x y ∨ i = .subReg x y ∨ i = .subn x y ∨ i = .shr x y ∨ i = .shl x y) ∨
    (∃ x y n, i = .drw x y n) ∨
    (∃ nn, i = .ldImm 0xF nn ∨ i = .addImm 0xF nn ∨ i = .rnd 0xF nn) ∨
    (∃ y, i = .ldReg 0xF y ∨ i = .orReg 0xF y ∨ i = .andReg 0xF y ∨ i = .xorReg 0xF y) ∨
    i = .ldVxDt 0xF ∨ i = .ldVxMem 0xF

/-- R95: the six classes of the next `PC`, for every instruction that completes. -/
def Obligations.NextPcByClass : Prop :=
  ∀ (i : Instr) (s t : State), s.isActive → exec i s = .next t → t.isActive →
    match i with
    | .jp nnn => t.pc.toNat = nnn.toNat
    | .call nnn => t.pc.toNat = nnn.toNat
    | .jpV0 nnn => t.pc.toNat = nnn.toNat + (s.reg 0).toNat
    | .ret => ∃ k : Fin 16, k.val + 1 = s.sp.toNat ∧ t.pc = s.stack[k.val]
    | .ldVxK _ => t.pc = s.pc
    | .seImm _ _ | .sneImm _ _ | .seReg _ _ | .sneReg _ _ | .skp _ | .sknp _ =>
      t.pc = s.pc + 4 ∨ t.pc = s.pc + 2
    | _ => t.pc = s.pc + 2
end

