-- ==== Sys2Proof/Laws/State.lean ====
section
/-!
SUPPORT. What each update does to each field of the state: one lemma per field per update, true by
definition, so that no proof unfolds a record update.
-/

namespace Sys2Proof.Machine

variable (s : State)


@[simp] theorem State.setReg_mem (x : Nibble) (b : Byte) : (s.setReg x b).mem = s.mem := rfl
@[simp] theorem State.setReg_v (x : Nibble) (b : Byte) : (s.setReg x b).v = s.v.set x.toNat b := rfl
@[simp] theorem State.setReg_i (x : Nibble) (b : Byte) : (s.setReg x b).i = s.i := rfl
@[simp] theorem State.setReg_pc (x : Nibble) (b : Byte) : (s.setReg x b).pc = s.pc := rfl
@[simp] theorem State.setReg_sp (x : Nibble) (b : Byte) : (s.setReg x b).sp = s.sp := rfl
@[simp] theorem State.setReg_stack (x : Nibble) (b : Byte) : (s.setReg x b).stack = s.stack := rfl
@[simp] theorem State.setReg_dt (x : Nibble) (b : Byte) : (s.setReg x b).dt = s.dt := rfl
@[simp] theorem State.setReg_st (x : Nibble) (b : Byte) : (s.setReg x b).st = s.st := rfl
@[simp] theorem State.setReg_fb (x : Nibble) (b : Byte) : (s.setReg x b).fb = s.fb := rfl
@[simp] theorem State.setReg_keys (x : Nibble) (b : Byte) : (s.setReg x b).keys = s.keys := rfl
@[simp] theorem State.setReg_wait (x : Nibble) (b : Byte) : (s.setReg x b).wait = s.wait := rfl
@[simp] theorem State.setReg_status (x : Nibble) (b : Byte) : (s.setReg x b).status = s.status := rfl
@[simp] theorem State.setReg_displayUpdated (x : Nibble) (b : Byte) : (s.setReg x b).displayUpdated = s.displayUpdated := rfl
@[simp] theorem State.setReg_cfg (x : Nibble) (b : Byte) : (s.setReg x b).cfg = s.cfg := rfl
@[simp] theorem State.setReg_driver (x : Nibble) (b : Byte) : (s.setReg x b).driver = s.driver := rfl
@[simp] theorem State.setReg_draws (x : Nibble) (b : Byte) : (s.setReg x b).draws = s.draws := rfl

@[simp] theorem State.setRegs_mem (bs : List Byte) : (s.setRegs bs).mem = s.mem := by rw [State.setRegs]
@[simp] theorem State.setRegs_v (bs : List Byte) : (s.setRegs bs).v = Vector.ofFn fun k : Fin 16 => bs.getD k.val s.v[k.val] := rfl
@[simp] theorem State.setRegs_i (bs : List Byte) : (s.setRegs bs).i = s.i := by rw [State.setRegs]
@[simp] theorem State.setRegs_pc (bs : List Byte) : (s.setRegs bs).pc = s.pc := by rw [State.setRegs]
@[simp] theorem State.setRegs_sp (bs : List Byte) : (s.setRegs bs).sp = s.sp := by rw [State.setRegs]
@[simp] theorem State.setRegs_stack (bs : List Byte) : (s.setRegs bs).stack = s.stack := by rw [State.setRegs]
@[simp] theorem State.setRegs_dt (bs : List Byte) : (s.setRegs bs).dt = s.dt := by rw [State.setRegs]
@[simp] theorem State.setRegs_st (bs : List Byte) : (s.setRegs bs).st = s.st := by rw [State.setRegs]
@[simp] theorem State.setRegs_fb (bs : List Byte) : (s.setRegs bs).fb = s.fb := by rw [State.setRegs]
@[simp] theorem State.setRegs_keys (bs : List Byte) : (s.setRegs bs).keys = s.keys := by rw [State.setRegs]
@[simp] theorem State.setRegs_wait (bs : List Byte) : (s.setRegs bs).wait = s.wait := by rw [State.setRegs]
@[simp] theorem State.setRegs_status (bs : List Byte) : (s.setRegs bs).status = s.status := by rw [State.setRegs]
@[simp] theorem State.setRegs_displayUpdated (bs : List Byte) : (s.setRegs bs).displayUpdated = s.displayUpdated := by rw [State.setRegs]
@[simp] theorem State.setRegs_cfg (bs : List Byte) : (s.setRegs bs).cfg = s.cfg := by rw [State.setRegs]
@[simp] theorem State.setRegs_driver (bs : List Byte) : (s.setRegs bs).driver = s.driver := by rw [State.setRegs]
@[simp] theorem State.setRegs_draws (bs : List Byte) : (s.setRegs bs).draws = s.draws := by rw [State.setRegs]

@[simp] theorem State.setI_mem (a : Word) : (s.setI a).mem = s.mem := rfl
@[simp] theorem State.setI_v (a : Word) : (s.setI a).v = s.v := rfl
@[simp] theorem State.setI_i (a : Word) : (s.setI a).i = a := rfl
@[simp] theorem State.setI_pc (a : Word) : (s.setI a).pc = s.pc := rfl
@[simp] theorem State.setI_sp (a : Word) : (s.setI a).sp = s.sp := rfl
@[simp] theorem State.setI_stack (a : Word) : (s.setI a).stack = s.stack := rfl
@[simp] theorem State.setI_dt (a : Word) : (s.setI a).dt = s.dt := rfl
@[simp] theorem State.setI_st (a : Word) : (s.setI a).st = s.st := rfl
@[simp] theorem State.setI_fb (a : Word) : (s.setI a).fb = s.fb := rfl
@[simp] theorem State.setI_keys (a : Word) : (s.setI a).keys = s.keys := rfl
@[simp] theorem State.setI_wait (a : Word) : (s.setI a).wait = s.wait := rfl
@[simp] theorem State.setI_status (a : Word) : (s.setI a).status = s.status := rfl
@[simp] theorem State.setI_displayUpdated (a : Word) : (s.setI a).displayUpdated = s.displayUpdated := rfl
@[simp] theorem State.setI_cfg (a : Word) : (s.setI a).cfg = s.cfg := rfl
@[simp] theorem State.setI_driver (a : Word) : (s.setI a).driver = s.driver := rfl
@[simp] theorem State.setI_draws (a : Word) : (s.setI a).draws = s.draws := rfl

@[simp] theorem State.setPc_mem (a : Word) : (s.setPc a).mem = s.mem := rfl
@[simp] theorem State.setPc_v (a : Word) : (s.setPc a).v = s.v := rfl
@[simp] theorem State.setPc_i (a : Word) : (s.setPc a).i = s.i := rfl
@[simp] theorem State.setPc_pc (a : Word) : (s.setPc a).pc = a := rfl
@[simp] theorem State.setPc_sp (a : Word) : (s.setPc a).sp = s.sp := rfl
@[simp] theorem State.setPc_stack (a : Word) : (s.setPc a).stack = s.stack := rfl
@[simp] theorem State.setPc_dt (a : Word) : (s.setPc a).dt = s.dt := rfl
@[simp] theorem State.setPc_st (a : Word) : (s.setPc a).st = s.st := rfl
@[simp] theorem State.setPc_fb (a : Word) : (s.setPc a).fb = s.fb := rfl
@[simp] theorem State.setPc_keys (a : Word) : (s.setPc a).keys = s.keys := rfl
@[simp] theorem State.setPc_wait (a : Word) : (s.setPc a).wait = s.wait := rfl
@[simp] theorem State.setPc_status (a : Word) : (s.setPc a).status = s.status := rfl
@[simp] theorem State.setPc_displayUpdated (a : Word) : (s.setPc a).displayUpdated = s.displayUpdated := rfl
@[simp] theorem State.setPc_cfg (a : Word) : (s.setPc a).cfg = s.cfg := rfl
@[simp] theorem State.setPc_driver (a : Word) : (s.setPc a).driver = s.driver := rfl
@[simp] theorem State.setPc_draws (a : Word) : (s.setPc a).draws = s.draws := rfl

@[simp] theorem State.advance_mem : (s.advance).mem = s.mem := rfl
@[simp] theorem State.advance_v : (s.advance).v = s.v := rfl
@[simp] theorem State.advance_i : (s.advance).i = s.i := rfl
@[simp] theorem State.advance_pc : (s.advance).pc = s.pc + 2 := rfl
@[simp] theorem State.advance_sp : (s.advance).sp = s.sp := rfl
@[simp] theorem State.advance_stack : (s.advance).stack = s.stack := rfl
@[simp] theorem State.advance_dt : (s.advance).dt = s.dt := rfl
@[simp] theorem State.advance_st : (s.advance).st = s.st := rfl
@[simp] theorem State.advance_fb : (s.advance).fb = s.fb := rfl
@[simp] theorem State.advance_keys : (s.advance).keys = s.keys := rfl
@[simp] theorem State.advance_wait : (s.advance).wait = s.wait := rfl
@[simp] theorem State.advance_status : (s.advance).status = s.status := rfl
@[simp] theorem State.advance_displayUpdated : (s.advance).displayUpdated = s.displayUpdated := rfl
@[simp] theorem State.advance_cfg : (s.advance).cfg = s.cfg := rfl
@[simp] theorem State.advance_driver : (s.advance).driver = s.driver := rfl
@[simp] theorem State.advance_draws : (s.advance).draws = s.draws := rfl

@[simp] theorem State.skipIf_mem (c : Bool) : (s.skipIf c).mem = s.mem := rfl
@[simp] theorem State.skipIf_v (c : Bool) : (s.skipIf c).v = s.v := rfl
@[simp] theorem State.skipIf_i (c : Bool) : (s.skipIf c).i = s.i := rfl
@[simp] theorem State.skipIf_pc (c : Bool) : (s.skipIf c).pc = if c then s.pc + 4 else s.pc + 2 := rfl
@[simp] theorem State.skipIf_sp (c : Bool) : (s.skipIf c).sp = s.sp := rfl
@[simp] theorem State.skipIf_stack (c : Bool) : (s.skipIf c).stack = s.stack := rfl
@[simp] theorem State.skipIf_dt (c : Bool) : (s.skipIf c).dt = s.dt := rfl
@[simp] theorem State.skipIf_st (c : Bool) : (s.skipIf c).st = s.st := rfl
@[simp] theorem State.skipIf_fb (c : Bool) : (s.skipIf c).fb = s.fb := rfl
@[simp] theorem State.skipIf_keys (c : Bool) : (s.skipIf c).keys = s.keys := rfl
@[simp] theorem State.skipIf_wait (c : Bool) : (s.skipIf c).wait = s.wait := rfl
@[simp] theorem State.skipIf_status (c : Bool) : (s.skipIf c).status = s.status := rfl
@[simp] theorem State.skipIf_displayUpdated (c : Bool) : (s.skipIf c).displayUpdated = s.displayUpdated := rfl
@[simp] theorem State.skipIf_cfg (c : Bool) : (s.skipIf c).cfg = s.cfg := rfl
@[simp] theorem State.skipIf_driver (c : Bool) : (s.skipIf c).driver = s.driver := rfl
@[simp] theorem State.skipIf_draws (c : Bool) : (s.skipIf c).draws = s.draws := rfl

@[simp] theorem State.setDt_mem (b : Byte) : (s.setDt b).mem = s.mem := rfl
@[simp] theorem State.setDt_v (b : Byte) : (s.setDt b).v = s.v := rfl
@[simp] theorem State.setDt_i (b : Byte) : (s.setDt b).i = s.i := rfl
@[simp] theorem State.setDt_pc (b : Byte) : (s.setDt b).pc = s.pc := rfl
@[simp] theorem State.setDt_sp (b : Byte) : (s.setDt b).sp = s.sp := rfl
@[simp] theorem State.setDt_stack (b : Byte) : (s.setDt b).stack = s.stack := rfl
@[simp] theorem State.setDt_dt (b : Byte) : (s.setDt b).dt = b := rfl
@[simp] theorem State.setDt_st (b : Byte) : (s.setDt b).st = s.st := rfl
@[simp] theorem State.setDt_fb (b : Byte) : (s.setDt b).fb = s.fb := rfl
@[simp] theorem State.setDt_keys (b : Byte) : (s.setDt b).keys = s.keys := rfl
@[simp] theorem State.setDt_wait (b : Byte) : (s.setDt b).wait = s.wait := rfl
@[simp] theorem State.setDt_status (b : Byte) : (s.setDt b).status = s.status := rfl
@[simp] theorem State.setDt_displayUpdated (b : Byte) : (s.setDt b).displayUpdated = s.displayUpdated := rfl
@[simp] theorem State.setDt_cfg (b : Byte) : (s.setDt b).cfg = s.cfg := rfl
@[simp] theorem State.setDt_driver (b : Byte) : (s.setDt b).driver = s.driver := rfl
@[simp] theorem State.setDt_draws (b : Byte) : (s.setDt b).draws = s.draws := rfl

@[simp] theorem State.setSt_mem (b : Byte) : (s.setSt b).mem = s.mem := rfl
@[simp] theorem State.setSt_v (b : Byte) : (s.setSt b).v = s.v := rfl
@[simp] theorem State.setSt_i (b : Byte) : (s.setSt b).i = s.i := rfl
@[simp] theorem State.setSt_pc (b : Byte) : (s.setSt b).pc = s.pc := rfl
@[simp] theorem State.setSt_sp (b : Byte) : (s.setSt b).sp = s.sp := rfl
@[simp] theorem State.setSt_stack (b : Byte) : (s.setSt b).stack = s.stack := rfl
@[simp] theorem State.setSt_dt (b : Byte) : (s.setSt b).dt = s.dt := rfl
@[simp] theorem State.setSt_st (b : Byte) : (s.setSt b).st = b := rfl
@[simp] theorem State.setSt_fb (b : Byte) : (s.setSt b).fb = s.fb := rfl
@[simp] theorem State.setSt_keys (b : Byte) : (s.setSt b).keys = s.keys := rfl
@[simp] theorem State.setSt_wait (b : Byte) : (s.setSt b).wait = s.wait := rfl
@[simp] theorem State.setSt_status (b : Byte) : (s.setSt b).status = s.status := rfl
@[simp] theorem State.setSt_displayUpdated (b : Byte) : (s.setSt b).displayUpdated = s.displayUpdated := rfl
@[simp] theorem State.setSt_cfg (b : Byte) : (s.setSt b).cfg = s.cfg := rfl
@[simp] theorem State.setSt_driver (b : Byte) : (s.setSt b).driver = s.driver := rfl
@[simp] theorem State.setSt_draws (b : Byte) : (s.setSt b).draws = s.draws := rfl

@[simp] theorem State.setWait_mem (w : Wait) : (s.setWait w).mem = s.mem := rfl
@[simp] theorem State.setWait_v (w : Wait) : (s.setWait w).v = s.v := rfl
@[simp] theorem State.setWait_i (w : Wait) : (s.setWait w).i = s.i := rfl
@[simp] theorem State.setWait_pc (w : Wait) : (s.setWait w).pc = s.pc := rfl
@[simp] theorem State.setWait_sp (w : Wait) : (s.setWait w).sp = s.sp := rfl
@[simp] theorem State.setWait_stack (w : Wait) : (s.setWait w).stack = s.stack := rfl
@[simp] theorem State.setWait_dt (w : Wait) : (s.setWait w).dt = s.dt := rfl
@[simp] theorem State.setWait_st (w : Wait) : (s.setWait w).st = s.st := rfl
@[simp] theorem State.setWait_fb (w : Wait) : (s.setWait w).fb = s.fb := rfl
@[simp] theorem State.setWait_keys (w : Wait) : (s.setWait w).keys = s.keys := rfl
@[simp] theorem State.setWait_wait (w : Wait) : (s.setWait w).wait = w := rfl
@[simp] theorem State.setWait_status (w : Wait) : (s.setWait w).status = s.status := rfl
@[simp] theorem State.setWait_displayUpdated (w : Wait) : (s.setWait w).displayUpdated = s.displayUpdated := rfl
@[simp] theorem State.setWait_cfg (w : Wait) : (s.setWait w).cfg = s.cfg := rfl
@[simp] theorem State.setWait_driver (w : Wait) : (s.setWait w).driver = s.driver := rfl
@[simp] theorem State.setWait_draws (w : Wait) : (s.setWait w).draws = s.draws := rfl

@[simp] theorem State.setDisplayUpdated_mem (b : Bool) : (s.setDisplayUpdated b).mem = s.mem := rfl
@[simp] theorem State.setDisplayUpdated_v (b : Bool) : (s.setDisplayUpdated b).v = s.v := rfl
@[simp] theorem State.setDisplayUpdated_i (b : Bool) : (s.setDisplayUpdated b).i = s.i := rfl
@[simp] theorem State.setDisplayUpdated_pc (b : Bool) : (s.setDisplayUpdated b).pc = s.pc := rfl
@[simp] theorem State.setDisplayUpdated_sp (b : Bool) : (s.setDisplayUpdated b).sp = s.sp := rfl
@[simp] theorem State.setDisplayUpdated_stack (b : Bool) : (s.setDisplayUpdated b).stack = s.stack := rfl
@[simp] theorem State.setDisplayUpdated_dt (b : Bool) : (s.setDisplayUpdated b).dt = s.dt := rfl
@[simp] theorem State.setDisplayUpdated_st (b : Bool) : (s.setDisplayUpdated b).st = s.st := rfl
@[simp] theorem State.setDisplayUpdated_fb (b : Bool) : (s.setDisplayUpdated b).fb = s.fb := rfl
@[simp] theorem State.setDisplayUpdated_keys (b : Bool) : (s.setDisplayUpdated b).keys = s.keys := rfl
@[simp] theorem State.setDisplayUpdated_wait (b : Bool) : (s.setDisplayUpdated b).wait = s.wait := rfl
@[simp] theorem State.setDisplayUpdated_status (b : Bool) : (s.setDisplayUpdated b).status = s.status := rfl
@[simp] theorem State.setDisplayUpdated_displayUpdated (b : Bool) : (s.setDisplayUpdated b).displayUpdated = b := rfl
@[simp] theorem State.setDisplayUpdated_cfg (b : Bool) : (s.setDisplayUpdated b).cfg = s.cfg := rfl
@[simp] theorem State.setDisplayUpdated_driver (b : Bool) : (s.setDisplayUpdated b).driver = s.driver := rfl
@[simp] theorem State.setDisplayUpdated_draws (b : Bool) : (s.setDisplayUpdated b).draws = s.draws := rfl

@[simp] theorem State.setFb_mem (f : Framebuffer) : (s.setFb f).mem = s.mem := rfl
@[simp] theorem State.setFb_v (f : Framebuffer) : (s.setFb f).v = s.v := rfl
@[simp] theorem State.setFb_i (f : Framebuffer) : (s.setFb f).i = s.i := rfl
@[simp] theorem State.setFb_pc (f : Framebuffer) : (s.setFb f).pc = s.pc := rfl
@[simp] theorem State.setFb_sp (f : Framebuffer) : (s.setFb f).sp = s.sp := rfl
@[simp] theorem State.setFb_stack (f : Framebuffer) : (s.setFb f).stack = s.stack := rfl
@[simp] theorem State.setFb_dt (f : Framebuffer) : (s.setFb f).dt = s.dt := rfl
@[simp] theorem State.setFb_st (f : Framebuffer) : (s.setFb f).st = s.st := rfl
@[simp] theorem State.setFb_fb (f : Framebuffer) : (s.setFb f).fb = f := rfl
@[simp] theorem State.setFb_keys (f : Framebuffer) : (s.setFb f).keys = s.keys := rfl
@[simp] theorem State.setFb_wait (f : Framebuffer) : (s.setFb f).wait = s.wait := rfl
@[simp] theorem State.setFb_status (f : Framebuffer) : (s.setFb f).status = s.status := rfl
@[simp] theorem State.setFb_displayUpdated (f : Framebuffer) : (s.setFb f).displayUpdated = s.displayUpdated := rfl
@[simp] theorem State.setFb_cfg (f : Framebuffer) : (s.setFb f).cfg = s.cfg := rfl
@[simp] theorem State.setFb_driver (f : Framebuffer) : (s.setFb f).driver = s.driver := rfl
@[simp] theorem State.setFb_draws (f : Framebuffer) : (s.setFb f).draws = s.draws := rfl

@[simp] theorem State.countDraw_mem : (s.countDraw).mem = s.mem := rfl
@[simp] theorem State.countDraw_v : (s.countDraw).v = s.v := rfl
@[simp] theorem State.countDraw_i : (s.countDraw).i = s.i := rfl
@[simp] theorem State.countDraw_pc : (s.countDraw).pc = s.pc := rfl
@[simp] theorem State.countDraw_sp : (s.countDraw).sp = s.sp := rfl
@[simp] theorem State.countDraw_stack : (s.countDraw).stack = s.stack := rfl
@[simp] theorem State.countDraw_dt : (s.countDraw).dt = s.dt := rfl
@[simp] theorem State.countDraw_st : (s.countDraw).st = s.st := rfl
@[simp] theorem State.countDraw_fb : (s.countDraw).fb = s.fb := rfl
@[simp] theorem State.countDraw_keys : (s.countDraw).keys = s.keys := rfl
@[simp] theorem State.countDraw_wait : (s.countDraw).wait = s.wait := rfl
@[simp] theorem State.countDraw_status : (s.countDraw).status = s.status := rfl
@[simp] theorem State.countDraw_displayUpdated : (s.countDraw).displayUpdated = s.displayUpdated := rfl
@[simp] theorem State.countDraw_cfg : (s.countDraw).cfg = s.cfg := rfl
@[simp] theorem State.countDraw_driver : (s.countDraw).driver = s.driver := rfl
@[simp] theorem State.countDraw_draws : (s.countDraw).draws = s.draws + 1 := rfl

@[simp] theorem State.writeBytes_mem (a : Nat) (bs : List Byte) : (s.writeBytes a bs).mem = Memory.writeAll s.cfg a bs s.mem := rfl
@[simp] theorem State.writeBytes_v (a : Nat) (bs : List Byte) : (s.writeBytes a bs).v = s.v := rfl
@[simp] theorem State.writeBytes_i (a : Nat) (bs : List Byte) : (s.writeBytes a bs).i = s.i := rfl
@[simp] theorem State.writeBytes_pc (a : Nat) (bs : List Byte) : (s.writeBytes a bs).pc = s.pc := rfl
@[simp] theorem State.writeBytes_sp (a : Nat) (bs : List Byte) : (s.writeBytes a bs).sp = s.sp := rfl
@[simp] theorem State.writeBytes_stack (a : Nat) (bs : List Byte) : (s.writeBytes a bs).stack = s.stack := rfl
@[simp] theorem State.writeBytes_dt (a : Nat) (bs : List Byte) : (s.writeBytes a bs).dt = s.dt := rfl
@[simp] theorem State.writeBytes_st (a : Nat) (bs : List Byte) : (s.writeBytes a bs).st = s.st := rfl
@[simp] theorem State.writeBytes_fb (a : Nat) (bs : List Byte) : (s.writeBytes a bs).fb = s.fb := rfl
@[simp] theorem State.writeBytes_keys (a : Nat) (bs : List Byte) : (s.writeBytes a bs).keys = s.keys := rfl
@[simp] theorem State.writeBytes_wait (a : Nat) (bs : List Byte) : (s.writeBytes a bs).wait = s.wait := rfl
@[simp] theorem State.writeBytes_status (a : Nat) (bs : List Byte) : (s.writeBytes a bs).status = s.status := rfl
@[simp] theorem State.writeBytes_displayUpdated (a : Nat) (bs : List Byte) : (s.writeBytes a bs).displayUpdated = s.displayUpdated := rfl
@[simp] theorem State.writeBytes_cfg (a : Nat) (bs : List Byte) : (s.writeBytes a bs).cfg = s.cfg := rfl
@[simp] theorem State.writeBytes_driver (a : Nat) (bs : List Byte) : (s.writeBytes a bs).driver = s.driver := rfl
@[simp] theorem State.writeBytes_draws (a : Nat) (bs : List Byte) : (s.writeBytes a bs).draws = s.draws := rfl

@[simp] theorem State.halt_mem (e : ErrorRecord) : (s.halt e).mem = s.mem := rfl
@[simp] theorem State.halt_v (e : ErrorRecord) : (s.halt e).v = s.v := rfl
@[simp] theorem State.halt_i (e : ErrorRecord) : (s.halt e).i = s.i := rfl
@[simp] theorem State.halt_pc (e : ErrorRecord) : (s.halt e).pc = s.pc := rfl
@[simp] theorem State.halt_sp (e : ErrorRecord) : (s.halt e).sp = s.sp := rfl
@[simp] theorem State.halt_stack (e : ErrorRecord) : (s.halt e).stack = s.stack := rfl
@[simp] theorem State.halt_dt (e : ErrorRecord) : (s.halt e).dt = s.dt := rfl
@[simp] theorem State.halt_st (e : ErrorRecord) : (s.halt e).st = s.st := rfl
@[simp] theorem State.halt_fb (e : ErrorRecord) : (s.halt e).fb = s.fb := rfl
@[simp] theorem State.halt_keys (e : ErrorRecord) : (s.halt e).keys = s.keys := rfl
@[simp] theorem State.halt_wait (e : ErrorRecord) : (s.halt e).wait = s.wait := rfl
@[simp] theorem State.halt_status (e : ErrorRecord) : (s.halt e).status = .halted e := rfl
@[simp] theorem State.halt_displayUpdated (e : ErrorRecord) : (s.halt e).displayUpdated = s.displayUpdated := rfl
@[simp] theorem State.halt_cfg (e : ErrorRecord) : (s.halt e).cfg = s.cfg := rfl
@[simp] theorem State.halt_driver (e : ErrorRecord) : (s.halt e).driver = s.driver := rfl
@[simp] theorem State.halt_draws (e : ErrorRecord) : (s.halt e).draws = s.draws := rfl

@[simp] theorem State.elapse_mem (n : Nat) : (s.elapse n).mem = s.mem := rfl
@[simp] theorem State.elapse_v (n : Nat) : (s.elapse n).v = s.v := rfl
@[simp] theorem State.elapse_i (n : Nat) : (s.elapse n).i = s.i := rfl
@[simp] theorem State.elapse_pc (n : Nat) : (s.elapse n).pc = s.pc := rfl
@[simp] theorem State.elapse_sp (n : Nat) : (s.elapse n).sp = s.sp := rfl
@[simp] theorem State.elapse_stack (n : Nat) : (s.elapse n).stack = s.stack := rfl
@[simp] theorem State.elapse_dt (n : Nat) : (s.elapse n).dt = countDown n s.dt := rfl
@[simp] theorem State.elapse_st (n : Nat) : (s.elapse n).st = countDown n s.st := rfl
@[simp] theorem State.elapse_fb (n : Nat) : (s.elapse n).fb = s.fb := rfl
@[simp] theorem State.elapse_keys (n : Nat) : (s.elapse n).keys = s.keys := rfl
@[simp] theorem State.elapse_wait (n : Nat) : (s.elapse n).wait = s.wait := rfl
@[simp] theorem State.elapse_status (n : Nat) : (s.elapse n).status = s.status := rfl
@[simp] theorem State.elapse_displayUpdated (n : Nat) : (s.elapse n).displayUpdated = s.displayUpdated := rfl
@[simp] theorem State.elapse_cfg (n : Nat) : (s.elapse n).cfg = s.cfg := rfl
@[simp] theorem State.elapse_driver (n : Nat) : (s.elapse n).driver = ⟨s.driver.cpuTicks, s.driver.timerTicks + n⟩ := rfl
@[simp] theorem State.elapse_draws (n : Nat) : (s.elapse n).draws = s.draws := rfl

@[simp] theorem State.deliverDueTicks_mem : (s.deliverDueTicks).mem = s.mem := rfl
@[simp] theorem State.deliverDueTicks_v : (s.deliverDueTicks).v = s.v := rfl
@[simp] theorem State.deliverDueTicks_i : (s.deliverDueTicks).i = s.i := rfl
@[simp] theorem State.deliverDueTicks_pc : (s.deliverDueTicks).pc = s.pc := rfl
@[simp] theorem State.deliverDueTicks_sp : (s.deliverDueTicks).sp = s.sp := rfl
@[simp] theorem State.deliverDueTicks_stack : (s.deliverDueTicks).stack = s.stack := rfl
@[simp] theorem State.deliverDueTicks_dt : (s.deliverDueTicks).dt = countDown s.dueTicks s.dt := rfl
@[simp] theorem State.deliverDueTicks_st : (s.deliverDueTicks).st = countDown s.dueTicks s.st := rfl
@[simp] theorem State.deliverDueTicks_fb : (s.deliverDueTicks).fb = s.fb := rfl
@[simp] theorem State.deliverDueTicks_keys : (s.deliverDueTicks).keys = s.keys := rfl
@[simp] theorem State.deliverDueTicks_wait : (s.deliverDueTicks).wait = s.wait := rfl
@[simp] theorem State.deliverDueTicks_status : (s.deliverDueTicks).status = s.status := rfl
@[simp] theorem State.deliverDueTicks_displayUpdated : (s.deliverDueTicks).displayUpdated = s.displayUpdated := rfl
@[simp] theorem State.deliverDueTicks_cfg : (s.deliverDueTicks).cfg = s.cfg := rfl
@[simp] theorem State.deliverDueTicks_driver : (s.deliverDueTicks).driver = ⟨s.driver.cpuTicks, s.driver.timerTicks + s.dueTicks⟩ := rfl
@[simp] theorem State.deliverDueTicks_draws : (s.deliverDueTicks).draws = s.draws := rfl

@[simp] theorem State.countCpuTick_mem : (s.countCpuTick).mem = s.mem := rfl
@[simp] theorem State.countCpuTick_v : (s.countCpuTick).v = s.v := rfl
@[simp] theorem State.countCpuTick_i : (s.countCpuTick).i = s.i := rfl
@[simp] theorem State.countCpuTick_pc : (s.countCpuTick).pc = s.pc := rfl
@[simp] theorem State.countCpuTick_sp : (s.countCpuTick).sp = s.sp := rfl
@[simp] theorem State.countCpuTick_stack : (s.countCpuTick).stack = s.stack := rfl
@[simp] theorem State.countCpuTick_dt : (s.countCpuTick).dt = s.dt := rfl
@[simp] theorem State.countCpuTick_st : (s.countCpuTick).st = s.st := rfl
@[simp] theorem State.countCpuTick_fb : (s.countCpuTick).fb = s.fb := rfl
@[simp] theorem State.countCpuTick_keys : (s.countCpuTick).keys = s.keys := rfl
@[simp] theorem State.countCpuTick_wait : (s.countCpuTick).wait = s.wait := rfl
@[simp] theorem State.countCpuTick_status : (s.countCpuTick).status = s.status := rfl
@[simp] theorem State.countCpuTick_displayUpdated : (s.countCpuTick).displayUpdated = s.displayUpdated := rfl
@[simp] theorem State.countCpuTick_cfg : (s.countCpuTick).cfg = s.cfg := rfl
@[simp] theorem State.countCpuTick_driver : (s.countCpuTick).driver = ⟨s.driver.cpuTicks + 1, s.driver.timerTicks⟩ := rfl
@[simp] theorem State.countCpuTick_draws : (s.countCpuTick).draws = s.draws := rfl

@[simp] theorem keySet_mem (k : Nibble) (p : Bool) : (keySet k p s).mem = s.mem := rfl
@[simp] theorem keySet_v (k : Nibble) (p : Bool) : (keySet k p s).v = s.v := rfl
@[simp] theorem keySet_i (k : Nibble) (p : Bool) : (keySet k p s).i = s.i := rfl
@[simp] theorem keySet_pc (k : Nibble) (p : Bool) : (keySet k p s).pc = s.pc := rfl
@[simp] theorem keySet_sp (k : Nibble) (p : Bool) : (keySet k p s).sp = s.sp := rfl
@[simp] theorem keySet_stack (k : Nibble) (p : Bool) : (keySet k p s).stack = s.stack := rfl
@[simp] theorem keySet_dt (k : Nibble) (p : Bool) : (keySet k p s).dt = s.dt := rfl
@[simp] theorem keySet_st (k : Nibble) (p : Bool) : (keySet k p s).st = s.st := rfl
@[simp] theorem keySet_fb (k : Nibble) (p : Bool) : (keySet k p s).fb = s.fb := rfl
@[simp] theorem keySet_keys (k : Nibble) (p : Bool) : (keySet k p s).keys = s.keys.set k.toNat p := rfl
@[simp] theorem keySet_wait (k : Nibble) (p : Bool) : (keySet k p s).wait = s.wait := rfl
@[simp] theorem keySet_status (k : Nibble) (p : Bool) : (keySet k p s).status = s.status := rfl
@[simp] theorem keySet_displayUpdated (k : Nibble) (p : Bool) : (keySet k p s).displayUpdated = s.displayUpdated := rfl
@[simp] theorem keySet_cfg (k : Nibble) (p : Bool) : (keySet k p s).cfg = s.cfg := rfl
@[simp] theorem keySet_driver (k : Nibble) (p : Bool) : (keySet k p s).driver = s.driver := rfl
@[simp] theorem keySet_draws (k : Nibble) (p : Bool) : (keySet k p s).draws = s.draws := rfl

@[simp] theorem State.setFlag_mem (c : Bool) : (s.setFlag c).mem = s.mem := rfl
@[simp] theorem State.setFlag_v (c : Bool) : (s.setFlag c).v = s.v.set vf.toNat (flagByte c) := rfl
@[simp] theorem State.setFlag_i (c : Bool) : (s.setFlag c).i = s.i := rfl
@[simp] theorem State.setFlag_pc (c : Bool) : (s.setFlag c).pc = s.pc := rfl
@[simp] theorem State.setFlag_sp (c : Bool) : (s.setFlag c).sp = s.sp := rfl
@[simp] theorem State.setFlag_stack (c : Bool) : (s.setFlag c).stack = s.stack := rfl
@[simp] theorem State.setFlag_dt (c : Bool) : (s.setFlag c).dt = s.dt := rfl
@[simp] theorem State.setFlag_st (c : Bool) : (s.setFlag c).st = s.st := rfl
@[simp] theorem State.setFlag_fb (c : Bool) : (s.setFlag c).fb = s.fb := rfl
@[simp] theorem State.setFlag_keys (c : Bool) : (s.setFlag c).keys = s.keys := rfl
@[simp] theorem State.setFlag_wait (c : Bool) : (s.setFlag c).wait = s.wait := rfl
@[simp] theorem State.setFlag_status (c : Bool) : (s.setFlag c).status = s.status := rfl
@[simp] theorem State.setFlag_displayUpdated (c : Bool) : (s.setFlag c).displayUpdated = s.displayUpdated := rfl
@[simp] theorem State.setFlag_cfg (c : Bool) : (s.setFlag c).cfg = s.cfg := rfl
@[simp] theorem State.setFlag_driver (c : Bool) : (s.setFlag c).driver = s.driver := rfl
@[simp] theorem State.setFlag_draws (c : Bool) : (s.setFlag c).draws = s.draws := rfl

@[simp] theorem State.bumpIndex_mem (x : Nibble) : (s.bumpIndex x).mem = s.mem := by
  unfold State.bumpIndex; split <;> rfl
@[simp] theorem State.bumpIndex_v (x : Nibble) : (s.bumpIndex x).v = s.v := by
  unfold State.bumpIndex; split <;> rfl
/-- `I` under `store_load_quirk` (R174, R175). -/
theorem State.bumpIndex_i_on (x : Nibble) (h : s.cfg.storeLoadQuirk = true) :
    (s.bumpIndex x).i = s.i + x.setWidth 16 + 1 := by
  simp only [State.bumpIndex, h, if_true]; rfl
/-- `I` without `store_load_quirk` (R174, R175). -/
theorem State.bumpIndex_i_off (x : Nibble) (h : s.cfg.storeLoadQuirk = false) :
    (s.bumpIndex x).i = s.i := by
  simp only [State.bumpIndex, h]; rfl
@[simp] theorem State.bumpIndex_pc (x : Nibble) : (s.bumpIndex x).pc = s.pc := by
  unfold State.bumpIndex; split <;> rfl
@[simp] theorem State.bumpIndex_sp (x : Nibble) : (s.bumpIndex x).sp = s.sp := by
  unfold State.bumpIndex; split <;> rfl
@[simp] theorem State.bumpIndex_stack (x : Nibble) : (s.bumpIndex x).stack = s.stack := by
  unfold State.bumpIndex; split <;> rfl
@[simp] theorem State.bumpIndex_dt (x : Nibble) : (s.bumpIndex x).dt = s.dt := by
  unfold State.bumpIndex; split <;> rfl
@[simp] theorem State.bumpIndex_st (x : Nibble) : (s.bumpIndex x).st = s.st := by
  unfold State.bumpIndex; split <;> rfl
@[simp] theorem State.bumpIndex_fb (x : Nibble) : (s.bumpIndex x).fb = s.fb := by
  unfold State.bumpIndex; split <;> rfl
@[simp] theorem State.bumpIndex_keys (x : Nibble) : (s.bumpIndex x).keys = s.keys := by
  unfold State.bumpIndex; split <;> rfl
@[simp] theorem State.bumpIndex_wait (x : Nibble) : (s.bumpIndex x).wait = s.wait := by
  unfold State.bumpIndex; split <;> rfl
@[simp] theorem State.bumpIndex_status (x : Nibble) : (s.bumpIndex x).status = s.status := by
  unfold State.bumpIndex; split <;> rfl
@[simp] theorem State.bumpIndex_displayUpdated (x : Nibble) : (s.bumpIndex x).displayUpdated = s.displayUpdated := by
  unfold State.bumpIndex; split <;> rfl
@[simp] theorem State.bumpIndex_cfg (x : Nibble) : (s.bumpIndex x).cfg = s.cfg := by
  unfold State.bumpIndex; split <;> rfl
@[simp] theorem State.bumpIndex_driver (x : Nibble) : (s.bumpIndex x).driver = s.driver := by
  unfold State.bumpIndex; split <;> rfl
@[simp] theorem State.bumpIndex_draws (x : Nibble) : (s.bumpIndex x).draws = s.draws := by
  unfold State.bumpIndex; split <;> rfl

end Sys2Proof.Machine
end

