-- ==== Sys2Proof/Laws/Views.lean ====
section
/-!
SUPPORT. What each update does to the parts of the state that are read through an accessor: one
register, one key, one pixel, one byte of memory. An update that does not write the part leaves it.
-/

namespace Sys2Proof.Machine

variable (s : State)


@[simp] theorem State.setReg_key (y : Nibble) (b : Byte) (k : Nibble) : (s.setReg y b).key k = s.key k := rfl
@[simp] theorem State.setReg_pixel (z : Nibble) (b : Byte) (y : Fin 32) (x : Fin 64) : (s.setReg z b).pixel y x = s.pixel y x := rfl
@[simp] theorem State.setReg_byteAt (y : Nibble) (b : Byte) (a : Nat) : (s.setReg y b).byteAt a = s.byteAt a := rfl

@[simp] theorem State.setRegs_key (bs : List Byte) (k : Nibble) : (s.setRegs bs).key k = s.key k := by simp only [State.key, State.setRegs]
@[simp] theorem State.setRegs_pixel (bs : List Byte) (y : Fin 32) (x : Fin 64) : (s.setRegs bs).pixel y x = s.pixel y x := by simp only [State.pixel, State.setRegs]
@[simp] theorem State.setRegs_byteAt (bs : List Byte) (a : Nat) : (s.setRegs bs).byteAt a = s.byteAt a := by simp only [State.byteAt, State.setRegs]

@[simp] theorem State.setI_reg (a : Word) (x : Nibble) : (s.setI a).reg x = s.reg x := rfl
@[simp] theorem State.setI_key (a : Word) (k : Nibble) : (s.setI a).key k = s.key k := rfl
@[simp] theorem State.setI_pixel (a : Word) (y : Fin 32) (x : Fin 64) : (s.setI a).pixel y x = s.pixel y x := rfl
@[simp] theorem State.setI_byteAt (b : Word) (a : Nat) : (s.setI b).byteAt a = s.byteAt a := rfl

@[simp] theorem State.setPc_reg (a : Word) (x : Nibble) : (s.setPc a).reg x = s.reg x := rfl
@[simp] theorem State.setPc_key (a : Word) (k : Nibble) : (s.setPc a).key k = s.key k := rfl
@[simp] theorem State.setPc_pixel (a : Word) (y : Fin 32) (x : Fin 64) : (s.setPc a).pixel y x = s.pixel y x := rfl
@[simp] theorem State.setPc_byteAt (b : Word) (a : Nat) : (s.setPc b).byteAt a = s.byteAt a := rfl

@[simp] theorem State.advance_reg (x : Nibble) : (s.advance).reg x = s.reg x := rfl
@[simp] theorem State.advance_key (k : Nibble) : (s.advance).key k = s.key k := rfl
@[simp] theorem State.advance_pixel (y : Fin 32) (x : Fin 64) : (s.advance).pixel y x = s.pixel y x := rfl
@[simp] theorem State.advance_byteAt (a : Nat) : (s.advance).byteAt a = s.byteAt a := rfl

@[simp] theorem State.skipIf_reg (c : Bool) (x : Nibble) : (s.skipIf c).reg x = s.reg x := rfl
@[simp] theorem State.skipIf_key (c : Bool) (k : Nibble) : (s.skipIf c).key k = s.key k := rfl
@[simp] theorem State.skipIf_pixel (c : Bool) (y : Fin 32) (x : Fin 64) : (s.skipIf c).pixel y x = s.pixel y x := rfl
@[simp] theorem State.skipIf_byteAt (c : Bool) (a : Nat) : (s.skipIf c).byteAt a = s.byteAt a := rfl

@[simp] theorem State.setDt_reg (b : Byte) (x : Nibble) : (s.setDt b).reg x = s.reg x := rfl
@[simp] theorem State.setDt_key (b : Byte) (k : Nibble) : (s.setDt b).key k = s.key k := rfl
@[simp] theorem State.setDt_pixel (b : Byte) (y : Fin 32) (x : Fin 64) : (s.setDt b).pixel y x = s.pixel y x := rfl
@[simp] theorem State.setDt_byteAt (b : Byte) (a : Nat) : (s.setDt b).byteAt a = s.byteAt a := rfl

@[simp] theorem State.setSt_reg (b : Byte) (x : Nibble) : (s.setSt b).reg x = s.reg x := rfl
@[simp] theorem State.setSt_key (b : Byte) (k : Nibble) : (s.setSt b).key k = s.key k := rfl
@[simp] theorem State.setSt_pixel (b : Byte) (y : Fin 32) (x : Fin 64) : (s.setSt b).pixel y x = s.pixel y x := rfl
@[simp] theorem State.setSt_byteAt (b : Byte) (a : Nat) : (s.setSt b).byteAt a = s.byteAt a := rfl

@[simp] theorem State.setWait_reg (w : Wait) (x : Nibble) : (s.setWait w).reg x = s.reg x := rfl
@[simp] theorem State.setWait_key (w : Wait) (k : Nibble) : (s.setWait w).key k = s.key k := rfl
@[simp] theorem State.setWait_pixel (w : Wait) (y : Fin 32) (x : Fin 64) : (s.setWait w).pixel y x = s.pixel y x := rfl
@[simp] theorem State.setWait_byteAt (w : Wait) (a : Nat) : (s.setWait w).byteAt a = s.byteAt a := rfl

@[simp] theorem State.setDisplayUpdated_reg (b : Bool) (x : Nibble) : (s.setDisplayUpdated b).reg x = s.reg x := rfl
@[simp] theorem State.setDisplayUpdated_key (b : Bool) (k : Nibble) : (s.setDisplayUpdated b).key k = s.key k := rfl
@[simp] theorem State.setDisplayUpdated_pixel (b : Bool) (y : Fin 32) (x : Fin 64) : (s.setDisplayUpdated b).pixel y x = s.pixel y x := rfl
@[simp] theorem State.setDisplayUpdated_byteAt (b : Bool) (a : Nat) : (s.setDisplayUpdated b).byteAt a = s.byteAt a := rfl

@[simp] theorem State.setFb_reg (f : Framebuffer) (x : Nibble) : (s.setFb f).reg x = s.reg x := rfl
@[simp] theorem State.setFb_key (f : Framebuffer) (k : Nibble) : (s.setFb f).key k = s.key k := rfl
@[simp] theorem State.setFb_byteAt (f : Framebuffer) (a : Nat) : (s.setFb f).byteAt a = s.byteAt a := rfl

@[simp] theorem State.countDraw_reg (x : Nibble) : (s.countDraw).reg x = s.reg x := rfl
@[simp] theorem State.countDraw_key (k : Nibble) : (s.countDraw).key k = s.key k := rfl
@[simp] theorem State.countDraw_pixel (y : Fin 32) (x : Fin 64) : (s.countDraw).pixel y x = s.pixel y x := rfl
@[simp] theorem State.countDraw_byteAt (a : Nat) : (s.countDraw).byteAt a = s.byteAt a := rfl

@[simp] theorem State.writeBytes_reg (c : Nat) (bs : List Byte) (x : Nibble) : (s.writeBytes c bs).reg x = s.reg x := rfl
@[simp] theorem State.writeBytes_key (c : Nat) (bs : List Byte) (k : Nibble) : (s.writeBytes c bs).key k = s.key k := rfl
@[simp] theorem State.writeBytes_pixel (c : Nat) (bs : List Byte) (y : Fin 32) (x : Fin 64) : (s.writeBytes c bs).pixel y x = s.pixel y x := rfl

@[simp] theorem State.halt_reg (e : ErrorRecord) (x : Nibble) : (s.halt e).reg x = s.reg x := rfl
@[simp] theorem State.halt_key (e : ErrorRecord) (k : Nibble) : (s.halt e).key k = s.key k := rfl
@[simp] theorem State.halt_pixel (e : ErrorRecord) (y : Fin 32) (x : Fin 64) : (s.halt e).pixel y x = s.pixel y x := rfl
@[simp] theorem State.halt_byteAt (e : ErrorRecord) (a : Nat) : (s.halt e).byteAt a = s.byteAt a := rfl

@[simp] theorem State.elapse_reg (n : Nat) (x : Nibble) : (s.elapse n).reg x = s.reg x := rfl
@[simp] theorem State.elapse_key (n : Nat) (k : Nibble) : (s.elapse n).key k = s.key k := rfl
@[simp] theorem State.elapse_pixel (n : Nat) (y : Fin 32) (x : Fin 64) : (s.elapse n).pixel y x = s.pixel y x := rfl
@[simp] theorem State.elapse_byteAt (n : Nat) (a : Nat) : (s.elapse n).byteAt a = s.byteAt a := rfl

@[simp] theorem State.deliverDueTicks_reg (x : Nibble) : (s.deliverDueTicks).reg x = s.reg x := rfl
@[simp] theorem State.deliverDueTicks_key (k : Nibble) : (s.deliverDueTicks).key k = s.key k := rfl
@[simp] theorem State.deliverDueTicks_pixel (y : Fin 32) (x : Fin 64) : (s.deliverDueTicks).pixel y x = s.pixel y x := rfl
@[simp] theorem State.deliverDueTicks_byteAt (a : Nat) : (s.deliverDueTicks).byteAt a = s.byteAt a := rfl

@[simp] theorem State.countCpuTick_reg (x : Nibble) : (s.countCpuTick).reg x = s.reg x := rfl
@[simp] theorem State.countCpuTick_key (k : Nibble) : (s.countCpuTick).key k = s.key k := rfl
@[simp] theorem State.countCpuTick_pixel (y : Fin 32) (x : Fin 64) : (s.countCpuTick).pixel y x = s.pixel y x := rfl
@[simp] theorem State.countCpuTick_byteAt (a : Nat) : (s.countCpuTick).byteAt a = s.byteAt a := rfl

@[simp] theorem keySet_reg (j : Nibble) (p : Bool) (x : Nibble) : (keySet j p s).reg x = s.reg x := rfl
@[simp] theorem keySet_pixel (j : Nibble) (p : Bool) (y : Fin 32) (x : Fin 64) : (keySet j p s).pixel y x = s.pixel y x := rfl
@[simp] theorem keySet_byteAt (j : Nibble) (p : Bool) (a : Nat) : (keySet j p s).byteAt a = s.byteAt a := rfl

@[simp] theorem State.setFlag_key (c : Bool) (k : Nibble) : (s.setFlag c).key k = s.key k := rfl
@[simp] theorem State.setFlag_pixel (c : Bool) (y : Fin 32) (x : Fin 64) : (s.setFlag c).pixel y x = s.pixel y x := rfl
@[simp] theorem State.setFlag_byteAt (c : Bool) (a : Nat) : (s.setFlag c).byteAt a = s.byteAt a := rfl

@[simp] theorem State.bumpIndex_reg (z : Nibble) (x : Nibble) : (s.bumpIndex z).reg x = s.reg x := by
  unfold State.bumpIndex; split <;> rfl
@[simp] theorem State.bumpIndex_key (z : Nibble) (k : Nibble) : (s.bumpIndex z).key k = s.key k := by
  unfold State.bumpIndex; split <;> rfl
@[simp] theorem State.bumpIndex_pixel (z : Nibble) (y : Fin 32) (x : Fin 64) : (s.bumpIndex z).pixel y x = s.pixel y x := by
  unfold State.bumpIndex; split <;> rfl
@[simp] theorem State.bumpIndex_byteAt (z : Nibble) (a : Nat) : (s.bumpIndex z).byteAt a = s.byteAt a := by
  unfold State.bumpIndex; split <;> rfl

end Sys2Proof.Machine
end

