-- ==== Sys2Proof/Laws/Memory.lean ====
section
/-!
SUPPORT. Memory: what a read gives after a write, and that every memory operation keeps the
canonical form (spec/20_memory.md R54, R60, R62; log 8).
-/

namespace Sys2Proof.Machine

/-- Dropping the cells of `a` leaves nothing listed there and every other address as it was. -/
theorem Memory.listed_filter (m : Memory) (a a' : Nat) :
    Memory.listed (m.filter fun c => c.1 != a) a' = if a' = a then none else m.listed a' := by
  induction m with
  | nil => simp [Memory.listed]
  | cons c m ih =>
    by_cases hc : c.1 = a
    · rw [List.filter_cons_of_neg (by simp [hc]), ih]
      by_cases ha : a' = a
      · simp [ha]
      · simp [ha, Memory.listed, hc, Ne.symm ha]
    · rw [List.filter_cons_of_pos (by simp [hc]), Memory.listed, ih]
      by_cases ha : a' = a
      · simp [ha, hc]
      · simp [ha, Memory.listed]

/-- The cell put in is the one listed at its address, where none was; nothing else moves. -/
theorem Memory.listed_insert (m : Memory) (a : Nat) (b : Byte) (h : m.listed a = none) (a' : Nat) :
    (Memory.insert a b m).listed a' = if a' = a then some b else m.listed a' := by
  induction m with
  | nil =>
    by_cases ha : a' = a
    · simp [Memory.insert, Memory.listed, ha]
    · simp [Memory.insert, Memory.listed, ha, Ne.symm ha]
  | cons c m ih =>
    have hc : ¬ c.1 = a := by intro hc; simp [Memory.listed, hc] at h
    have hm : Memory.listed m a = none := by simpa [Memory.listed, hc] using h
    unfold Memory.insert
    split
    · by_cases ha : a' = a
      · simp [Memory.listed, ha]
      · simp [Memory.listed, ha, Ne.symm ha]
    · simp only [Memory.listed, ih hm]
      by_cases ha : a' = a
      · simp [ha, hc]
      · simp [ha]

/-- A read after a write (R54, R62): the byte written at its address, the old byte elsewhere. -/
theorem Memory.read_write (cfg : Config) (m : Memory) (a : Nat) (b : Byte) (a' : Nat) :
    Memory.read cfg (Memory.write cfg a b m) a' = if a' = a then b else Memory.read cfg m a' := by
  simp only [Memory.read, Memory.write]
  split
  · next hb => rw [Memory.listed_filter]; split <;> simp_all
  · rw [Memory.listed_insert _ _ _ (by simp [Memory.listed_filter]), Memory.listed_filter]
    split <;> simp

/-- The cells after a cell is put in: the old ones and the new one. -/
theorem Memory.mem_insert {m : Memory} {a : Nat} {b : Byte} {c : Host.Cell}
    (h : c ∈ Memory.insert a b m) : c = (a, b) ∨ c ∈ m := by
  induction m with
  | nil => simpa [Memory.insert] using h
  | cons d m ih =>
    unfold Memory.insert at h
    split at h
    · simpa using h
    · rcases List.mem_cons.1 h with rfl | h
      · simp
      · exact (ih h).imp_right (List.mem_cons_of_mem _)

/-- Putting in a cell whose address no cell has keeps the addresses strictly rising. -/
theorem Memory.pairwise_insert {m : Memory} {a : Nat} (b : Byte)
    (hm : m.Pairwise fun c d => c.1 < d.1) (ha : ∀ c ∈ m, c.1 ≠ a) :
    (Memory.insert a b m).Pairwise fun c d => c.1 < d.1 := by
  induction m with
  | nil => simp [Memory.insert]
  | cons c m ih =>
    have hm' := List.pairwise_cons.1 hm
    unfold Memory.insert
    split
    · next h =>
      refine List.pairwise_cons.2 ⟨fun d hd => ?_, hm⟩
      rcases List.mem_cons.1 hd with rfl | hd
      · exact h
      · exact h.trans (hm'.1 d hd)
    · next h =>
      refine List.pairwise_cons.2 ⟨fun d hd => ?_, ih hm'.2 fun d hd => ha d (by simp [hd])⟩
      have hca := ha c (by simp)
      rcases Memory.mem_insert hd with rfl | hd
      · show c.1 < a; omega
      · exact hm'.1 d hd

/-- A write at an address that exists keeps the canonical form. -/
theorem Memory.wf_write {cfg : Config} {m : Memory} (hm : Memory.wf cfg m) {a : Nat}
    (ha : a ≤ 0xFFF) (b : Byte) : Memory.wf cfg (Memory.write cfg a b m) := by
  have hp : (m.filter fun c => c.1 != a).Pairwise fun c d => c.1 < d.1 := hm.1.filter _
  simp only [Memory.write]
  split
  · exact ⟨hp, fun c hc => hm.2 c (List.mem_filter.1 hc).1⟩
  · next hb =>
    refine ⟨Memory.pairwise_insert b hp fun c hc => by simpa using (List.mem_filter.1 hc).2, ?_⟩
    intro c hc
    rcases Memory.mem_insert hc with rfl | hc
    · exact ⟨ha, hb⟩
    · exact hm.2 c (List.mem_filter.1 hc).1

/-- Writing several bytes at addresses that exist keeps the canonical form. -/
theorem Memory.wf_writeAll {cfg : Config} (bs : List Byte) : ∀ {m : Memory} {a : Nat},
    Memory.wf cfg m → a + bs.length ≤ 0x1000 → Memory.wf cfg (Memory.writeAll cfg a bs m) := by
  induction bs with
  | nil => intro m a hm _; exact hm
  | cons b bs ih =>
    intro m a hm h
    simp only [List.length_cons] at h
    exact ih (Memory.wf_write hm (by omega) b) (by omega)

/-- A read after several bytes are written: a written byte at the written addresses, the old byte at
every other address. -/
theorem Memory.read_writeAll (cfg : Config) (bs : List Byte) : ∀ (m : Memory) (a a' : Nat),
    Memory.read cfg (Memory.writeAll cfg a bs m) a' =
      if h : a ≤ a' ∧ a' - a < bs.length then bs[a' - a] else Memory.read cfg m a' := by
  induction bs with
  | nil => intro m a a'; simp [Memory.writeAll]
  | cons b bs ih =>
    intro m a a'
    rw [Memory.writeAll, ih]
    by_cases h1 : a + 1 ≤ a' ∧ a' - (a + 1) < bs.length
    · have h2 : a ≤ a' ∧ a' - a < (b :: bs).length := by simp only [List.length_cons]; omega
      rw [dif_pos h1, dif_pos h2]
      simp only [show a' - a = (a' - (a + 1)) + 1 by omega, List.getElem_cons_succ]
    · rw [dif_neg h1, Memory.read_write]
      by_cases h2 : a' = a
      · subst h2; simp
      · rw [if_neg h2, dif_neg (by simp only [List.length_cons]; omega)]

/-- The byte at an address after a write of several bytes. -/
theorem State.byteAt_writeBytes (s : State) (a : Nat) (bs : List Byte) (a' : Nat) :
    (s.writeBytes a bs).byteAt a' =
      if h : a ≤ a' ∧ a' - a < bs.length then bs[a' - a] else s.byteAt a' :=
  Memory.read_writeAll s.cfg bs s.mem a a'

/-- The bytes read in one access, one by one. -/
theorem State.length_bytesAt (s : State) (n : Nat) : ∀ a, (s.bytesAt a n).length = n := by
  induction n with
  | zero => intro a; rfl
  | succ n ih => intro a; simp [State.bytesAt, ih]

/-- Byte `k` of an access at `a` is the byte at `a + k`. -/
theorem State.getElem_bytesAt (s : State) (n : Nat) : ∀ (a k : Nat) (h : k < (s.bytesAt a n).length),
    (s.bytesAt a n)[k] = s.byteAt (a + k) := by
  induction n with
  | zero => intro a k h; simp [State.bytesAt] at h
  | succ n ih =>
    intro a k h
    cases k with
    | zero => rfl
    | succ k =>
      simp only [State.bytesAt, List.getElem_cons_succ]
      rw [ih (a + 1) k]
      congr 1
      omega

/-- The byte at an address depends on memory and the configuration alone. -/
theorem State.byteAt_congr {s t : State} (hm : t.mem = s.mem) (hc : t.cfg = s.cfg) (a : Nat) :
    t.byteAt a = s.byteAt a := by
  unfold State.byteAt; rw [hm, hc]

/-- Reset memory is in canonical form. -/
theorem State.reset_mem_wf : Memory.wf State.reset.cfg State.reset.mem := by
  constructor
  · exact List.Pairwise.nil
  · intro c hc; cases hc

end Sys2Proof.Machine
end

