-- ==== Sys2Proof/Laws/Ops.lean ====
section
/-!
SUPPORT. One lemma per shared operation that says everything it can do: registers, keys, checked
accesses, the call stack, the nibble operand, the end of a cycle.
-/

namespace Sys2Proof.Machine

/-- A register after a register write (R9). -/
@[simp] theorem State.reg_setReg (s : State) (x y : Nibble) (b : Byte) :
    (s.setReg x b).reg y = if y = x then b else s.reg y := by
  simp only [State.reg, State.setReg, Vector.getElem_set, eq_comm (a := y), ← BitVec.toNat_inj]

/-- VF after a flag write, and the other registers (R140). -/
@[simp] theorem State.reg_setFlag (s : State) (y : Nibble) (c : Bool) :
    (s.setFlag c).reg y = if y = vf then flagByte c else s.reg y :=
  State.reg_setReg s vf y _

/-- A register depends on the register file alone. -/
theorem State.reg_congr {s t : State} (h : t.v = s.v) (x : Nibble) : t.reg x = s.reg x := by
  unfold State.reg; rw [h]

/-- A register after `FX65`'s register writes (R175). -/
@[simp] theorem State.reg_setRegs (s : State) (bs : List Byte) (x : Nibble) :
    (s.setRegs bs).reg x = bs.getD x.toNat (s.reg x) := by
  simp [State.reg]

/-- A key after the host's setter (R218). -/
@[simp] theorem State.key_keySet (s : State) (j k : Nibble) (p : Bool) :
    (keySet k p s).key j = if j = k then p else s.key j := by
  simp only [State.key, keySet, Vector.getElem_set, eq_comm (a := j), ← BitVec.toNat_inj]

/-- The registers `FX55` stores: `V[0]` to `V[X]` (R174). -/
theorem State.length_regsUpTo (s : State) (x : Nibble) : (s.regsUpTo x).length = x.toNat + 1 := by
  have := x.isLt
  simp [State.regsUpTo]
  omega

/-- The `k`-th byte that `FX55` stores is `V[k]` (R174). -/
theorem State.getElem_regsUpTo (s : State) (x : Nibble) (k : Nat) (h : k < (s.regsUpTo x).length) :
    (s.regsUpTo x)[k] = s.reg (BitVec.ofNat 4 k) := by
  have hx := x.isLt
  rw [State.length_regsUpTo] at h
  simp only [State.regsUpTo, State.reg, List.getElem_take, Vector.getElem_toList]
  congr 1
  simp
  omega

/-- When every address of an access exists (R53, R59). -/
theorem spanOk_iff (a n : Nat) : spanOk a n = true ↔ n = 0 ∨ a + n ≤ 0x1000 := by
  simp only [spanOk, decide_eq_true_eq]; omega

/-- A checked load reads the bytes and changes nothing, or raises the error of R59. -/
theorem loadBytes_spec (a n : Nat) (s : State) :
    (spanOk a n = true ∧ loadBytes a n s = .ok (s.bytesAt a n)) ∨
    (spanOk a n = false ∧
      loadBytes a n s = .error (.raise .addressOutOfBounds (some (max a 0x1000)))) := by
  unfold loadBytes lowestOutOfBounds
  cases h : spanOk a n <;> simp

/-- A checked store writes every byte, or none and raises the error of R59. -/
theorem storeBytes_spec (a : Nat) (bs : List Byte) (s : State) :
    (spanOk a bs.length = true ∧ storeBytes a bs s = .ok (s.writeBytes a bs)) ∨
    (spanOk a bs.length = false ∧
      storeBytes a bs s = .error (.raise .addressOutOfBounds (some (max a 0x1000)))) := by
  unfold storeBytes lowestOutOfBounds
  cases h : spanOk a bs.length <;> simp

/-- A checked store keeps the canonical form (log 8). -/
theorem storeBytes_wf {a : Nat} {bs : List Byte} {s t : State} (hm : Memory.wf s.cfg s.mem)
    (h : storeBytes a bs s = .ok t) : Memory.wf t.cfg t.mem := by
  rcases storeBytes_spec a bs s with ⟨hs, he⟩ | ⟨-, he⟩
  · rw [he] at h
    cases h
    rcases (spanOk_iff _ _).1 hs with h0 | h1
    · have : bs = [] := List.eq_nil_of_length_eq_zero h0
      subst this; exact hm
    · exact Memory.wf_writeAll bs hm h1
  · rw [he] at h; cases h

/-- `push` with a legal `SP`: the entry is written and `SP` counts it, or the stack is full (R110). -/
theorem push_spec (a : Word) (s : State) (h : s.sp.toNat ≤ 16) :
    (∃ hlt : s.sp.toNat < 16,
      push a s = .ok { s with stack := s.stack.set s.sp.toNat a, sp := s.sp + 1 }) ∨
    (s.sp = 16 ∧ push a s = .error (.raise .stackOverflow none)) := by
  by_cases hs : s.sp = 16
  · exact .inr ⟨hs, by simp [push, hs]⟩
  · have hlt : s.sp.toNat < 16 := by
      have : s.sp.toNat ≠ 16 := fun he => hs (BitVec.eq_of_toNat_eq he)
      omega
    exact .inl ⟨hlt, by rw [push, if_neg hs, dif_pos hlt]⟩

/-- `pop` with a legal `SP`: the top entry and `SP` one less, or the stack is empty (R111). -/
theorem pop_spec (s : State) (h : s.sp.toNat ≤ 16) :
    (∃ hlt : s.sp.toNat - 1 < 16, s.sp ≠ 0 ∧
      pop s = .ok (s.stack[s.sp.toNat - 1], { s with sp := s.sp - 1 })) ∨
    (s.sp = 0 ∧ pop s = .error (.raise .stackUnderflow none)) := by
  by_cases hs : s.sp = 0
  · exact .inr ⟨hs, by simp [pop, hs]⟩
  · have hlt : s.sp.toNat - 1 < 16 := by omega
    exact .inl ⟨hlt, hs, by rw [pop, if_neg hs, dif_pos hlt]⟩

/-- `V[X]` as a nibble, or the error of R245. -/
theorem nibbleOperand_spec (x : Nibble) (s : State) :
    ((s.reg x).toNat ≤ 0xF ∧ nibbleOperand x s = .ok ((s.reg x).setWidth 4)) ∨
    (0xF < (s.reg x).toNat ∧ nibbleOperand x s = .error (.raise .operandOutOfRange none)) := by
  unfold nibbleOperand
  by_cases h : 0xF < (s.reg x).toNat
  · exact .inr ⟨h, by simp [h]⟩
  · exact .inl ⟨by omega, by simp [h]⟩

/-- A cycle that ends in a next state ends in the body's state, or in `s` halted with `pc = pc0` and
the instruction's word, nothing else changed (R96, R97, R247). -/
theorem commit_next {ins : Instr} {s t : State} {r : Except Stop State}
    (h : commit ins s r = .next t) :
    r = .ok t ∨ ∃ kind addr, r = .error (.raise kind addr) ∧
      t = s.halt { kind := kind, pc := s.pc, word := some (encode ins), addr := addr } := by
  match r with
  | .ok u => left; simp only [commit, Host.Outcome.next.injEq] at h; rw [h]
  | .error (.raise kind addr) =>
    right
    simp only [commit, Host.Outcome.next.injEq] at h
    exact ⟨kind, addr, rfl, h.symm⟩
  | .error (.fault f) => simp [commit] at h

/-- The fetch reads the two bytes at `PC`, high byte first, or fails at `PC >= 0xFFF` (R55). -/
theorem fetchWord_spec (s : State) :
    (s.pc.toNat ≤ 0xFFE ∧
      fetchWord s = some (joinBytes (s.byteAt s.pc.toNat) (s.byteAt (s.pc.toNat + 1)))) ∨
    (0xFFF ≤ s.pc.toNat ∧ fetchWord s = none) := by
  unfold fetchWord
  by_cases h : 0xFFF ≤ s.pc.toNat
  · exact .inr ⟨h, by simp [h]⟩
  · exact .inl ⟨by omega, by simp [h]⟩

/-- The fetch depends on memory, the configuration and `PC` alone. -/
theorem fetchWord_congr {s t : State} (hm : t.mem = s.mem) (hc : t.cfg = s.cfg)
    (hp : t.pc = s.pc) : fetchWord t = fetchWord s := by
  unfold fetchWord; rw [hp, State.byteAt_congr hm hc, State.byteAt_congr hm hc]

/-- A word is its high byte times 256 plus its low byte (R55, R56). -/
theorem toNat_joinBytes (hi lo : Byte) : (joinBytes hi lo).toNat = hi.toNat * 256 + lo.toNat := by
  have := lo.isLt
  rw [joinBytes, BitVec.toNat_append, ← Nat.shiftLeft_add_eq_or_of_lt (by omega), Nat.shiftLeft_eq]

/-- The least pressed key is pressed, and no lesser key is (R212). -/
theorem State.leastKey_some {s : State} {k : Nibble} (h : s.leastKey = some k) :
    s.key k = true ∧ ∀ j : Nibble, j.toNat < k.toNat → s.key j = false := by
  unfold State.leastKey at h
  rw [Option.map_eq_some_iff] at h
  obtain ⟨n, hn, rfl⟩ := h
  obtain ⟨hlt, hp, hmin⟩ := List.findIdx?_eq_some_iff_getElem.1 hn
  simp only [Vector.length_toList] at hlt
  have hk : (BitVec.ofNat 4 n).toNat = n := by simp; omega
  constructor
  · simpa [State.key, Nat.mod_eq_of_lt hlt] using hp
  · intro j hj
    rw [hk] at hj
    simpa [State.key] using hmin j.toNat hj

/-- No key is the least one exactly when none is pressed (R212). -/
theorem State.leastKey_none {s : State} : s.leastKey = none ↔ ∀ k : Nibble, s.key k = false := by
  simp only [State.leastKey, Option.map_eq_none_iff, List.findIdx?_eq_none_iff]
  constructor
  · intro h k
    exact h _ (by simp [State.key])
  · intro h b hb
    obtain ⟨n, hn, rfl⟩ := List.mem_iff_getElem.1 hb
    simp only [Vector.length_toList] at hn
    simpa [State.key, Nat.mod_eq_of_lt hn] using h (BitVec.ofNat 4 n)

/-- `I` after `FX55` and `FX65`: incremented by `X + 1` under the quirk, exactly (R174, R175). -/
theorem State.toNat_bumpIndex (s : State) (x : Nibble) (h : s.i.toNat + x.toNat ≤ 0xFFF) :
    (s.bumpIndex x).i.toNat =
      if s.cfg.storeLoadQuirk = true then s.i.toNat + x.toNat + 1 else s.i.toNat := by
  cases hq : s.cfg.storeLoadQuirk
  · rw [State.bumpIndex_i_off _ _ hq]; rfl
  · rw [State.bumpIndex_i_on _ _ hq]; simp; omega

/-- A countdown register as a number: less the ticks, floored at 0 (R252). -/
theorem toNat_countDown (n : Nat) (t : Byte) : (countDown n t).toNat = t.toNat - n := by
  have := t.isLt
  simp [countDown]; omega

/-- A timer tick of an active core is a lapse of one tick (R252). -/
theorem timerTick_active {s : State} (h : s.status = .active) : timerTick s = s.elapse 1 := by
  have hc : ∀ b : Byte, (if 0 < b.toNat then b - 1 else b) = countDown 1 b := by
    intro b
    apply BitVec.eq_of_toNat_eq
    rw [toNat_countDown]
    split
    · simp [BitVec.toNat_sub]; omega
    · omega
  unfold timerTick State.elapse
  split
  · next hs => rw [h] at hs; cases hs
  · simp only [hc]

/-- The reset state is what construction gives for an empty ROM and the configuration of log 3
(R270, R271). -/
theorem init_empty_rom : init [] Config.atReset = .ok State.reset := rfl

end Sys2Proof.Machine
end

