-- ==== Sys2Proof/Laws/Cycle.lean ====
section
/-!
SUPPORT. What a cycle and a step can do, said once (spec/40_dispatch_cycle.md R90-R93;
spec/60_exceptions.md R249, R253), and what the small updates around `exec` leave alone.
-/

namespace Sys2Proof.Machine

/-- The state in which the cycle of a step begins: the due timer ticks delivered, the CPU tick
counted, `display_updated` false (R90, R253; log 5). -/
def State.cycleStart (s : State) : State :=
  (s.deliverDueTicks.countCpuTick).setDisplayUpdated false

@[simp] theorem State.cycleStart_mem (s : State) : s.cycleStart.mem = s.mem := rfl
@[simp] theorem State.cycleStart_v (s : State) : s.cycleStart.v = s.v := rfl
@[simp] theorem State.cycleStart_i (s : State) : s.cycleStart.i = s.i := rfl
@[simp] theorem State.cycleStart_pc (s : State) : s.cycleStart.pc = s.pc := rfl
@[simp] theorem State.cycleStart_sp (s : State) : s.cycleStart.sp = s.sp := rfl
@[simp] theorem State.cycleStart_stack (s : State) : s.cycleStart.stack = s.stack := rfl
@[simp] theorem State.cycleStart_dt (s : State) :
    s.cycleStart.dt = countDown s.dueTicks s.dt := rfl
@[simp] theorem State.cycleStart_st (s : State) :
    s.cycleStart.st = countDown s.dueTicks s.st := rfl
@[simp] theorem State.cycleStart_fb (s : State) : s.cycleStart.fb = s.fb := rfl
@[simp] theorem State.cycleStart_keys (s : State) : s.cycleStart.keys = s.keys := rfl
@[simp] theorem State.cycleStart_wait (s : State) : s.cycleStart.wait = s.wait := rfl
@[simp] theorem State.cycleStart_status (s : State) : s.cycleStart.status = s.status := rfl
@[simp] theorem State.cycleStart_displayUpdated (s : State) :
    s.cycleStart.displayUpdated = false := rfl
@[simp] theorem State.cycleStart_cfg (s : State) : s.cycleStart.cfg = s.cfg := rfl
@[simp] theorem State.cycleStart_driver (s : State) : s.cycleStart.driver =
    ⟨s.driver.cpuTicks + 1, s.driver.timerTicks + s.dueTicks⟩ := rfl
@[simp] theorem State.cycleStart_draws (s : State) : s.cycleStart.draws = s.draws := rfl

/-- A halted core does not step (R91, R248). -/
theorem step_halted {s : State} {e : ErrorRecord} (h : s.status = .halted e) : step s = .next s := by
  simp [step, driverStep, h]

/-- A step while awaiting a key is the key check of R212. -/
theorem step_awaiting {s : State} {x : Nibble} (h : s.status = .active)
    (hw : s.wait = .awaitingKey x) : step s = .next (keyWaitStep x s.cycleStart) := by
  simp [step, driverStep, cpuTick, cpuCycle, h, hw, State.cycleStart]

/-- A step of a running core fetches and executes (R90). -/
theorem step_running {s : State} (h : s.status = .active) (hw : s.wait = .running) :
    step s = fetchExecute s.cycleStart := by
  simp [step, driverStep, cpuTick, cpuCycle, h, hw, State.cycleStart]

/-- Everything a fetch and execution can be (R90, R249). -/
theorem fetchExecute_cases (s : State) :
    (fetchWord s = none ∧ fetchExecute s = .next (s.halt
      { kind := .addressOutOfBounds, pc := s.pc, word := none, addr := some s.pc.toNat })) ∨
    (∃ w, fetchWord s = some w ∧ decode w = none ∧ fetchExecute s = .next (s.halt
      { kind := .unknownOpcode, pc := s.pc, word := some w, addr := none })) ∨
    (∃ w ins, fetchWord s = some w ∧ decode w = some ins ∧ fetchExecute s = exec ins s) := by
  unfold fetchExecute
  cases hf : fetchWord s with
  | none => exact .inl ⟨rfl, rfl⟩
  | some w =>
    cases hd : decode w with
    | none => exact .inr (.inl ⟨w, rfl, hd, by simp [hd]⟩)
    | some ins => exact .inr (.inr ⟨w, ins, rfl, hd, by simp [hd]⟩)

/-- Everything a step can be: nothing, a key check, an error entry at fetch or decode, or the
execution of the decoded instruction. -/
theorem step_cases (s : State) :
    (∃ e, s.status = .halted e ∧ step s = .next s) ∨
    (∃ x, s.status = .active ∧ s.wait = .awaitingKey x ∧
      step s = .next (keyWaitStep x s.cycleStart)) ∨
    (s.fetches ∧ fetchWord s = none ∧ step s = .next (s.cycleStart.halt
      { kind := .addressOutOfBounds, pc := s.pc, word := none, addr := some s.pc.toNat })) ∨
    (∃ w, s.fetches ∧ fetchWord s = some w ∧ decode w = none ∧
      step s = .next (s.cycleStart.halt
        { kind := .unknownOpcode, pc := s.pc, word := some w, addr := none })) ∨
    (∃ w ins, s.fetches ∧ fetchWord s = some w ∧ decode w = some ins ∧
      step s = exec ins s.cycleStart) := by
  cases hs : s.status with
  | halted e => exact .inl ⟨e, rfl, step_halted hs⟩
  | active =>
    cases hw : s.wait with
    | awaitingKey x => exact .inr (.inl ⟨x, rfl, rfl, step_awaiting hs hw⟩)
    | running =>
      have hf : fetchWord s.cycleStart = fetchWord s := fetchWord_congr rfl rfl rfl
      rw [step_running hs hw]
      rcases fetchExecute_cases s.cycleStart with ⟨h1, h2⟩ | ⟨w, h1, h2, h3⟩ | ⟨w, ins, h1, h2, h3⟩
      · exact .inr (.inr (.inl ⟨⟨hs, hw⟩, hf ▸ h1, h2⟩))
      · exact .inr (.inr (.inr (.inl ⟨w, ⟨hs, hw⟩, hf ▸ h1, h2, h3⟩)))
      · exact .inr (.inr (.inr (.inr ⟨w, ins, ⟨hs, hw⟩, hf ▸ h1, h2, h3⟩)))

/-- The key check: a pressed key ends the wait with the least key in `V[x]`, else nothing (R212). -/
theorem keyWaitStep_cases (x : Nibble) (s : State) :
    (∃ k, s.leastKey = some k ∧
      keyWaitStep x s = ((s.setReg x (k.setWidth 8)).advance).setWait .running) ∨
    (s.leastKey = none ∧ keyWaitStep x s = s) := by
  unfold keyWaitStep
  cases h : s.leastKey with
  | some k => exact .inl ⟨k, rfl, rfl⟩
  | none => exact .inr ⟨rfl, rfl⟩

end Sys2Proof.Machine
end

