-- ==== Sys2Proof/Laws/PerInstr.lean ====
section
/-!
SUPPORT. Per instruction, about the instruction as syntax: its word matches its own row of the opcode
map (spec/30_encoding.md R75). One lemma per format of R73, then one per constructor.
-/

namespace Sys2Proof.Laws

/-- AND of two words of format `A`, field by field. -/
theorem formatA_and (o o' : Nibble) (a a' : Addr12) :
    formatA o a &&& formatA o' a' = formatA (o &&& o') (a &&& a') := BitVec.and_append

/-- AND of two words of format `RI`, field by field. -/
theorem formatRI_and (o o' x x' : Nibble) (a a' : Byte) :
    formatRI o x a &&& formatRI o' x' a' = formatRI (o &&& o') (x &&& x') (a &&& a') :=
  BitVec.and_append.trans (congrArg ((o &&& o') ++ ·) BitVec.and_append)

/-- AND of two words of format `RR`, field by field. -/
theorem formatRR_and (o o' x x' y y' n n' : Nibble) :
    formatRR o x y n &&& formatRR o' x' y' n' =
      formatRR (o &&& o') (x &&& x') (y &&& y') (n &&& n') :=
  BitVec.and_append.trans (congrArg ((o &&& o') ++ ·)
    (BitVec.and_append.trans (congrArg ((x &&& x') ++ ·) BitVec.and_append)))

/-- A nibble under a mask of four ones. -/
theorem nibble_and_ones (a : Nibble) : a &&& 0xF#4 = a := BitVec.and_allOnes

/-- A byte under a mask of eight ones. -/
theorem byte_and_ones (a : Byte) : a &&& 0xFF#8 = a := BitVec.and_allOnes

/-- Rows of format `A` fix the leading nibble. -/
theorem formatA_covers (o : Nibble) (a : Addr12) :
    (OpcodeRow.mk (formatA o 0) 0xF000).covers (formatA o a) = true := by
  rw [OpcodeRow.covers, show (0xF000 : Word) = formatA 0xF 0 from rfl, formatA_and]
  simp [nibble_and_ones]

/-- Rows of format `RI` fix the leading nibble. -/
theorem formatRI_covers (o x : Nibble) (a : Byte) :
    (OpcodeRow.mk (formatRI o 0 0) 0xF000).covers (formatRI o x a) = true := by
  rw [OpcodeRow.covers, show (0xF000 : Word) = formatRI 0xF 0 0 from rfl, formatRI_and]
  simp [nibble_and_ones]

/-- Rows of format `RS` fix the leading nibble and the low byte. -/
theorem formatRS_covers (o x : Nibble) (a : Byte) :
    (OpcodeRow.mk (formatRI o 0 a) 0xF0FF).covers (formatRI o x a) = true := by
  rw [OpcodeRow.covers, show (0xF0FF : Word) = formatRI 0xF 0 0xFF from rfl, formatRI_and]
  simp [nibble_and_ones, byte_and_ones]

/-- Rows of format `RR` fix the leading and the last nibble. -/
theorem formatRR_covers (o x y n : Nibble) :
    (OpcodeRow.mk (formatRR o 0 0 n) 0xF00F).covers (formatRR o x y n) = true := by
  rw [OpcodeRow.covers, show (0xF00F : Word) = formatRR 0xF 0 0 0xF from rfl, formatRR_and]
  simp [nibble_and_ones]

/-- The row of format `D` fixes the leading nibble. -/
theorem formatD_covers (o x y n : Nibble) :
    (OpcodeRow.mk (formatRR o 0 0 0) 0xF000).covers (formatRR o x y n) = true := by
  rw [OpcodeRow.covers, show (0xF000 : Word) = formatRR 0xF 0 0 0 from rfl, formatRR_and]
  simp [nibble_and_ones]

end Sys2Proof.Laws

namespace Sys2Proof.Laws.RowFits

/-- The word of `i` matches the row of `i` (R75). -/
def Statement (i : Instr) : Prop := (rowOf i).covers (encode i) = true

theorem cls : Statement .cls := by unfold Statement; decide

theorem ret : Statement .ret := by unfold Statement; decide

theorem jp (nnn : Addr12) : Statement (.jp nnn) := formatA_covers 0x1 nnn

theorem call (nnn : Addr12) : Statement (.call nnn) := formatA_covers 0x2 nnn

theorem seImm (x : Nibble) (nn : Byte) : Statement (.seImm x nn) := formatRI_covers 0x3 x nn

theorem sneImm (x : Nibble) (nn : Byte) : Statement (.sneImm x nn) := formatRI_covers 0x4 x nn

theorem seReg (x : Nibble) (y : Nibble) : Statement (.seReg x y) := formatRR_covers 0x5 x y 0x0

theorem ldImm (x : Nibble) (nn : Byte) : Statement (.ldImm x nn) := formatRI_covers 0x6 x nn

theorem addImm (x : Nibble) (nn : Byte) : Statement (.addImm x nn) := formatRI_covers 0x7 x nn

theorem ldReg (x : Nibble) (y : Nibble) : Statement (.ldReg x y) := formatRR_covers 0x8 x y 0x0

theorem orReg (x : Nibble) (y : Nibble) : Statement (.orReg x y) := formatRR_covers 0x8 x y 0x1

theorem andReg (x : Nibble) (y : Nibble) : Statement (.andReg x y) := formatRR_covers 0x8 x y 0x2

theorem xorReg (x : Nibble) (y : Nibble) : Statement (.xorReg x y) := formatRR_covers 0x8 x y 0x3

theorem addReg (x : Nibble) (y : Nibble) : Statement (.addReg x y) := formatRR_covers 0x8 x y 0x4

theorem subReg (x : Nibble) (y : Nibble) : Statement (.subReg x y) := formatRR_covers 0x8 x y 0x5

theorem shr (x : Nibble) (y : Nibble) : Statement (.shr x y) := formatRR_covers 0x8 x y 0x6

theorem subn (x : Nibble) (y : Nibble) : Statement (.subn x y) := formatRR_covers 0x8 x y 0x7

theorem shl (x : Nibble) (y : Nibble) : Statement (.shl x y) := formatRR_covers 0x8 x y 0xE

theorem sneReg (x : Nibble) (y : Nibble) : Statement (.sneReg x y) := formatRR_covers 0x9 x y 0x0

theorem ldI (nnn : Addr12) : Statement (.ldI nnn) := formatA_covers 0xA nnn

theorem jpV0 (nnn : Addr12) : Statement (.jpV0 nnn) := formatA_covers 0xB nnn

theorem rnd (x : Nibble) (nn : Byte) : Statement (.rnd x nn) := formatRI_covers 0xC x nn

theorem drw (x : Nibble) (y : Nibble) (n : Nibble) : Statement (.drw x y n) := formatD_covers 0xD x y n

theorem skp (x : Nibble) : Statement (.skp x) := formatRS_covers 0xE x 0x9E

theorem sknp (x : Nibble) : Statement (.sknp x) := formatRS_covers 0xE x 0xA1

theorem ldVxDt (x : Nibble) : Statement (.ldVxDt x) := formatRS_covers 0xF x 0x07

theorem ldVxK (x : Nibble) : Statement (.ldVxK x) := formatRS_covers 0xF x 0x0A

theorem ldDtVx (x : Nibble) : Statement (.ldDtVx x) := formatRS_covers 0xF x 0x15

theorem ldStVx (x : Nibble) : Statement (.ldStVx x) := formatRS_covers 0xF x 0x18

theorem addIVx (x : Nibble) : Statement (.addIVx x) := formatRS_covers 0xF x 0x1E

theorem ldFVx (x : Nibble) : Statement (.ldFVx x) := formatRS_covers 0xF x 0x29

theorem ldBVx (x : Nibble) : Statement (.ldBVx x) := formatRS_covers 0xF x 0x33

theorem ldMemVx (x : Nibble) : Statement (.ldMemVx x) := formatRS_covers 0xF x 0x55

theorem ldVxMem (x : Nibble) : Statement (.ldVxMem x) := formatRS_covers 0xF x 0x65

end Sys2Proof.Laws.RowFits
end

