-- ==== Sys2Proof/Laws/Decode.lean ====
section
/-!
SUPPORT. The fields of a word in each format, and the word its fields make up
(spec/30_encoding.md R71, R73).
-/

namespace Sys2Proof

/-- A word of format `A` as a number. -/
theorem toNat_formatA (o : Nibble) (a : Addr12) :
    (formatA o a).toNat = o.toNat * 4096 + a.toNat := by
  have := a.isLt
  rw [formatA, BitVec.toNat_append, ← Nat.shiftLeft_add_eq_or_of_lt (by omega), Nat.shiftLeft_eq]

/-- A word of format `RI` as a number. -/
theorem toNat_formatRI (o x : Nibble) (a : Byte) :
    (formatRI o x a).toNat = o.toNat * 4096 + x.toNat * 256 + a.toNat := by
  have := a.isLt
  have h : (x ++ a : BitVec 12).toNat = x.toNat * 256 + a.toNat := by
    rw [BitVec.toNat_append, ← Nat.shiftLeft_add_eq_or_of_lt (by omega), Nat.shiftLeft_eq]
  rw [show formatRI o x a = formatA o (x ++ a) from rfl, toNat_formatA, h]
  omega

/-- A word of format `RR` as a number. -/
theorem toNat_formatRR (o x y n : Nibble) :
    (formatRR o x y n).toNat = o.toNat * 4096 + x.toNat * 256 + y.toNat * 16 + n.toNat := by
  have := n.isLt
  have h : (y ++ n : BitVec 8).toNat = y.toNat * 16 + n.toNat := by
    rw [BitVec.toNat_append, ← Nat.shiftLeft_add_eq_or_of_lt (by omega), Nat.shiftLeft_eq]
  rw [show formatRR o x y n = formatRI o x (y ++ n) from rfl, toNat_formatRI, h]
  omega

theorem toNat_opField (w : Word) : (opField w).toNat = w.toNat / 4096 % 16 := by
  simp [opField, BitVec.extractLsb'_toNat, Nat.shiftRight_eq_div_pow]

theorem toNat_xField (w : Word) : (xField w).toNat = w.toNat / 256 % 16 := by
  simp [xField, BitVec.extractLsb'_toNat, Nat.shiftRight_eq_div_pow]

theorem toNat_yField (w : Word) : (yField w).toNat = w.toNat / 16 % 16 := by
  simp [yField, BitVec.extractLsb'_toNat, Nat.shiftRight_eq_div_pow]

theorem toNat_nField (w : Word) : (nField w).toNat = w.toNat % 16 := by
  simp [nField, BitVec.extractLsb'_toNat]

theorem toNat_nnField (w : Word) : (nnField w).toNat = w.toNat % 256 := by
  simp [nnField, BitVec.extractLsb'_toNat]

theorem toNat_nnnField (w : Word) : (nnnField w).toNat = w.toNat % 4096 := by
  simp [nnnField, BitVec.extractLsb'_toNat]

/-- The fields of a word of format `A`. -/
theorem fields_formatA (o : Nibble) (a : Addr12) :
    opField (formatA o a) = o ∧ nnnField (formatA o a) = a := by
  have ho := o.isLt
  have ha := a.isLt
  constructor <;> apply BitVec.eq_of_toNat_eq <;>
    simp only [toNat_opField, toNat_nnnField, toNat_formatA] <;> omega

/-- The fields of a word of format `RI`. -/
theorem fields_formatRI (o x : Nibble) (a : Byte) :
    opField (formatRI o x a) = o ∧ xField (formatRI o x a) = x ∧ nnField (formatRI o x a) = a := by
  have ho := o.isLt
  have hx := x.isLt
  have ha := a.isLt
  refine ⟨?_, ?_, ?_⟩ <;> apply BitVec.eq_of_toNat_eq <;>
    simp only [toNat_opField, toNat_xField, toNat_nnField, toNat_formatRI] <;> omega

/-- The fields of a word of format `RR`. -/
theorem fields_formatRR (o x y n : Nibble) :
    opField (formatRR o x y n) = o ∧ xField (formatRR o x y n) = x ∧
      yField (formatRR o x y n) = y ∧ nField (formatRR o x y n) = n := by
  have ho := o.isLt
  have hx := x.isLt
  have hy := y.isLt
  have hn := n.isLt
  refine ⟨?_, ?_, ?_, ?_⟩ <;> apply BitVec.eq_of_toNat_eq <;>
    simp only [toNat_opField, toNat_xField, toNat_yField, toNat_nField, toNat_formatRR] <;> omega

/-- A word is made up of its leading nibble and `NNN`. -/
theorem formatA_fields (w : Word) : formatA (opField w) (nnnField w) = w := by
  have hw := w.isLt
  apply BitVec.eq_of_toNat_eq
  simp only [toNat_formatA, toNat_opField, toNat_nnnField]
  omega

/-- A word is made up of its leading nibble, `X` and `NN`. -/
theorem formatRI_fields (w : Word) : formatRI (opField w) (xField w) (nnField w) = w := by
  have hw := w.isLt
  apply BitVec.eq_of_toNat_eq
  simp only [toNat_formatRI, toNat_opField, toNat_xField, toNat_nnField]
  omega

/-- A word is made up of its four nibbles. -/
theorem formatRR_fields (w : Word) :
    formatRR (opField w) (xField w) (yField w) (nField w) = w := by
  have hw := w.isLt
  apply BitVec.eq_of_toNat_eq
  simp only [toNat_formatRR, toNat_opField, toNat_xField, toNat_yField, toNat_nField]
  omega

/-- The two bytes of a word make it up (R56). -/
theorem joinBytes_bytes (w : Word) : joinBytes (hiByte w) (loByte w) = w := by
  have hw := w.isLt
  apply BitVec.eq_of_toNat_eq
  rw [joinBytes, BitVec.toNat_append, ← Nat.shiftLeft_add_eq_or_of_lt (BitVec.isLt _),
    Nat.shiftLeft_eq]
  simp only [hiByte, loByte, BitVec.extractLsb'_toNat, Nat.shiftRight_eq_div_pow]
  omega

/-- The decoder of a byte sequence reads its first two bytes as one word (R56, R70). -/
theorem decodeBytes_spec (hi lo : Byte) (rest : List Byte) :
    (∃ i, decode (joinBytes hi lo) = some i ∧ decodeBytes (hi :: lo :: rest) = .ok (i, rest)) ∨
    (decode (joinBytes hi lo) = none ∧
      decodeBytes (hi :: lo :: rest) = .error (.unknownOpcode (joinBytes hi lo))) := by
  unfold decodeBytes
  cases h : decode (joinBytes hi lo) with
  | some i => exact .inl ⟨i, rfl, by simp [h]⟩
  | none => exact .inr ⟨rfl, by simp [h]⟩

/-- The row of an instruction is a row of the opcode map (R75). -/
theorem rowOf_mem (i : Instr) : rowOf i ∈ opcodeMap := by
  cases i <;> simp [rowOf, opcodeMap]

end Sys2Proof
end

