-- ==== Sys2Proof/Laws/Display.lean ====
section
/-!
SUPPORT. What drawing does to the display and to the collision flag, said once
(spec/44_display.md R190, R192, R193).
-/

namespace Sys2Proof.Machine

/-- `k'` is `k` with the pixels of `H` inverted, the collision flag kept up. -/
structure Inverts (H : Fin 32 → Fin 64 → Prop) (k k' : Canvas) : Prop where
  hit : ∀ y x, H y x → k'.1[y.val][x.val] = !k.1[y.val][x.val]
  miss : ∀ y x, ¬ H y x → k'.1[y.val][x.val] = k.1[y.val][x.val]
  flag : k'.2 = true ↔ k.2 = true ∨ ∃ y x, H y x ∧ k.1[y.val][x.val] = true

/-- Inverting one pixel. -/
theorem invertPixel_inverts (px py : Nat) (k : Canvas) :
    Inverts (fun y x => y.val = py % 32 ∧ x.val = px % 64) k (invertPixel px py k) := by
  have hy : py % 32 < 32 := Nat.mod_lt _ (by decide)
  have hx : px % 64 < 64 := Nat.mod_lt _ (by decide)
  refine ⟨?_, ?_, ?_⟩
  · rintro y x ⟨h1, h2⟩
    simp [invertPixel, h1, h2]
  · intro y x h
    simp only [invertPixel, Vector.getElem_set]
    split
    · next h1 =>
      rw [Vector.getElem_set_ne]
      · simp [h1]
      · intro h2; exact h ⟨h1.symm, h2.symm⟩
    · rfl
  · constructor
    · intro h
      rcases Bool.or_eq_true _ _ ▸ h with h | h
      · exact .inl h
      · exact .inr ⟨⟨_, hy⟩, ⟨_, hx⟩, ⟨rfl, rfl⟩, h⟩
    · rintro (h | ⟨y, x, ⟨h1, h2⟩, h⟩)
      · simp [invertPixel, h]
      · simp only [invertPixel, ← h1, ← h2, h, Bool.or_true]

/-- A canvas left alone has nothing inverted. -/
theorem Inverts.nothing {H : Fin 32 → Fin 64 → Prop} (k : Canvas) (h : ∀ y x, ¬ H y x) : Inverts H k k :=
  ⟨fun y x hh => absurd hh (h y x), fun _ _ _ => rfl, by simp [h]⟩

/-- Two inversions of different pixels, one after the other. -/
theorem Inverts.trans {H H' : Fin 32 → Fin 64 → Prop} {k k' k'' : Canvas}
    (h : Inverts H k k') (h' : Inverts H' k' k'') (hd : ∀ y x, H y x → ¬ H' y x) : Inverts (fun y x => H y x ∨ H' y x) k k'' := by
  refine ⟨?_, ?_, ?_⟩
  · rintro y x (a | a)
    · rw [h'.miss y x (hd y x a), h.hit y x a]
    · rw [h'.hit y x a, h.miss y x (fun b => hd y x b a)]
  · intro y x a
    rw [h'.miss y x (fun b => a (.inr b)), h.miss y x (fun b => a (.inl b))]
  · rw [h'.flag, h.flag]
    constructor
    · rintro ((a | ⟨y, x, a, b⟩) | ⟨y, x, a, b⟩)
      · exact .inl a
      · exact .inr ⟨y, x, .inl a, b⟩
      · exact .inr ⟨y, x, .inr a, by rw [← h.miss y x (fun c => hd y x c a)]; exact b⟩
    · rintro (a | ⟨y, x, a | a, b⟩)
      · exact .inl (.inl a)
      · exact .inl (.inr ⟨y, x, a, b⟩)
      · exact .inr ⟨y, x, a, by rw [h.miss y x (fun c => hd y x c a)]; exact b⟩

/-- The same pixels said in another way. -/
theorem Inverts.congr {H H' : Fin 32 → Fin 64 → Prop} {k k' : Canvas} (h : Inverts H k k')
    (e : ∀ y x, H' y x ↔ H y x) : Inverts H' k k' := by
  have : H' = H := by funext y x; exact propext (e y x)
  rw [this]; exact h

/-- The pixels under the set bits of one sprite row (R190, R192). -/
def rowHits (vx vy r : Nat) (row : Byte) (y : Fin 32) (x : Fin 64) : Prop :=
  ∃ c < 8, spriteBit row c = true ∧ x.val = (vx + c) % 64 ∧ y.val = (vy + r) % 32

/-- A sprite row inverts exactly the pixels under its set bits. -/
theorem drawRow_inverts (vx vy r : Nat) (row : Byte) (k : Canvas) :
    Inverts (rowHits vx vy r row) k (drawRow vx vy r row k) := by
  have : ∀ m ≤ 8, Inverts
      (fun y x => ∃ c < m,
        spriteBit row c = true ∧ x.val = (vx + c) % 64 ∧ y.val = (vy + r) % 32) k
      ((List.range m).foldl
        (fun k c => if spriteBit row c then invertPixel (vx + c) (vy + r) k else k) k) := by
    intro m
    induction m with
    | zero => intro _; exact Inverts.nothing _ (by simp)
    | succ m ih =>
      intro hm
      rw [List.range_succ, List.foldl_append]
      simp only [List.foldl_cons, List.foldl_nil]
      have hi := ih (by omega)
      by_cases hb : spriteBit row m = true
      · rw [if_pos hb]
        refine (hi.trans (invertPixel_inverts _ _ _) ?_).congr ?_
        · rintro y x ⟨c, h1, _, h2, _⟩ ⟨_, h3⟩; omega
        · intro y x
          constructor
          · rintro ⟨c, h1, h2, h3, h4⟩
            by_cases hc : c = m
            · subst hc; exact .inr ⟨h4, h3⟩
            · exact .inl ⟨c, by omega, h2, h3, h4⟩
          · rintro (⟨c, h1, h⟩ | ⟨h4, h3⟩)
            · exact ⟨c, by omega, h⟩
            · exact ⟨m, by omega, hb, h3, h4⟩
      · rw [if_neg hb]
        refine hi.congr ?_
        intro y x
        constructor
        · rintro ⟨c, h1, h2, h3⟩
          have hc : c ≠ m := by rintro rfl; exact hb h2
          exact ⟨c, by omega, h2, h3⟩
        · rintro ⟨c, h1, h⟩; exact ⟨c, by omega, h⟩
  exact this 8 (by decide)

/-- A sprite inverts exactly the pixels under its set bits, each once (R192). -/
theorem drawRows_inverts (vx vy : Nat) (rows : List Byte) (hlen : rows.length ≤ 32) :
    ∀ (r : Nat) (k : Canvas),
      Inverts (fun y x => ∃ (j : Nat) (h : j < rows.length), rowHits vx vy (r + j) rows[j] y x)
        k (drawRows vx vy r rows k) := by
  induction rows with
  | nil => intro r k; exact Inverts.nothing _ (by simp)
  | cons row rows ih =>
    intro r k
    simp only [List.length_cons] at hlen
    refine ((drawRow_inverts vx vy r row k).trans (ih (by omega) (r + 1) _) ?_).congr ?_
    · rintro y x ⟨c, _, _, _, h1⟩ ⟨j, hj, c', _, _, _, h2⟩; omega
    · intro y x
      constructor
      · rintro ⟨j, hj, h⟩
        match j with
        | 0 => exact .inl h
        | j + 1 => exact .inr ⟨j, by simpa using hj, by rw [Nat.add_right_comm]; exact h⟩
      · rintro (h | ⟨j, hj, h⟩)
        · exact ⟨0, by simp, h⟩
        · exact ⟨j + 1, by simpa using hj, by rw [Nat.add_right_comm] at h; exact h⟩

end Sys2Proof.Machine
end

