-- ==== Sys2Proof/Tests/Slice0.lean ====
section
/-!
SUPPORT. Tests: the checks of WellFormed, one word of each encoding, the spec's own vectors
(spec/95_test_vectors.md, whose ids the comments name), and a witness for every obligation that has
hypotheses. Expected results come from the spec.
-/

namespace Sys2Proof.Tests

open Sys2Proof.Machine

/-! ### The start states of 95_test_vectors.md -/

/-- `FONT_BASE = 0`, the default font, `CPU_HZ = 120`, the quirks as given. -/
def conf (storeLoad shiftY : Bool) : Config where
  storeLoadQuirk := storeLoad
  shiftYQuirk := shiftY
  cpuHz := 120
  fontBase := 0
  fontData := Config.defaultFont

/-- The reset state of the vectors with the quirks as given. -/
def startQ (storeLoad shiftY : Bool) : State := { State.reset with cfg := conf storeLoad shiftY }

/-- The reset state of the vectors. -/
def start : State := startQ false false

/-- `start` with `V1` and `V2`. -/
def start2 (a b : Byte) : State := (start.setReg 1 a).setReg 2 b

/-- The outcome is a next state of which `f` holds. -/
def after (r : Result) (f : State → Bool) : Bool :=
  match r with
  | .next t => f t
  | _ => false

/-- The outcome is `s` halted with this record. -/
def errs (r : Result) (s : State) (kind : ErrorKind) (pc : Word) (word : Option Word)
    (addr : Option Nat) : Bool :=
  after r fun t => t == { s with status := .halted ⟨kind, pc, word, addr⟩ }

/-- `start` with the pixel at row `y` and column `x` on. -/
def lit (y : Fin 32) (x : Fin 64) (s : State) : State :=
  s.setFb (s.fb.set y.val (s.fb[y.val].set x.val true))

/-- A core halted on the word 0000 at 0x200. -/
def halted : State := { start with dt := 5, status := .halted ⟨.unknownOpcode, 0x200, some 0, none⟩ }

/-! ### WellFormed: an ill-formed term for each check -/

theorem test_wf_accepts : (conf false false).wf = true := by decide
theorem test_wf_refuses_cpuHz_zero : ({ conf false false with cpuHz := 0 } : Config).wf = false := by
  decide
theorem test_wf_refuses_font_over_rom :
    ({ conf false false with fontBase := 0x1B1 } : Config).wf = false := by decide
theorem test_wf_accepts_highest_font :
    ({ conf false false with fontBase := 0x1B0 } : Config).wf = true := by decide
theorem test_wf_accepts_longest_rom : romFits (List.replicate 3584 0) = true := by
  rw [romFits, List.length_replicate]; decide
theorem test_wf_refuses_longer_rom : romFits (List.replicate 3585 0) = false := by
  rw [romFits, List.length_replicate]; decide

/-! ### Decoding: a word of each row, written from R73 and R75 -/

theorem test_decode_cls : decode 0b0000000011100000#16 = some .cls := by decide
theorem test_decode_ret : decode 0b0000000011101110#16 = some .ret := by decide
theorem test_decode_jp : decode 0b0001001000110100#16 = some (.jp 0x234) := by decide
theorem test_decode_call : decode 0b0010101010111100#16 = some (.call 0xABC) := by decide
theorem test_decode_seImm : decode 0b0011010110100101#16 = some (.seImm 5 0xA5) := by decide
theorem test_decode_sneImm : decode 0b0100000000000110#16 = some (.sneImm 0 0x06) := by decide
theorem test_decode_seReg : decode 0b0101000100100000#16 = some (.seReg 1 2) := by decide
theorem test_decode_ldImm : decode 0b0110101001111011#16 = some (.ldImm 0xA 0x7B) := by decide
theorem test_decode_addImm : decode 0b0111000111111111#16 = some (.addImm 1 0xFF) := by decide
theorem test_decode_ldReg : decode 0b1000110100100000#16 = some (.ldReg 0xD 2) := by decide
theorem test_decode_orReg : decode 0b1000000100100001#16 = some (.orReg 1 2) := by decide
theorem test_decode_andReg : decode 0b1000000100100010#16 = some (.andReg 1 2) := by decide
theorem test_decode_xorReg : decode 0b1000000100100011#16 = some (.xorReg 1 2) := by decide
theorem test_decode_addReg : decode 0b1000111100100100#16 = some (.addReg 0xF 2) := by decide
theorem test_decode_subReg : decode 0b1000000111110101#16 = some (.subReg 1 0xF) := by decide
theorem test_decode_shr : decode 0b1000000100100110#16 = some (.shr 1 2) := by decide
theorem test_decode_subn : decode 0b1000000100100111#16 = some (.subn 1 2) := by decide
theorem test_decode_shl : decode 0b1000000100101110#16 = some (.shl 1 2) := by decide
theorem test_decode_sneReg : decode 0b1001000100100000#16 = some (.sneReg 1 2) := by decide
theorem test_decode_ldI : decode 0b1010001100000000#16 = some (.ldI 0x300) := by decide
theorem test_decode_jpV0 : decode 0b1011111111111111#16 = some (.jpV0 0xFFF) := by decide
theorem test_decode_rnd : decode 0b1100001111110000#16 = some (.rnd 3 0xF0) := by decide
theorem test_decode_drw : decode 0b1101000100100101#16 = some (.drw 1 2 5) := by decide
theorem test_decode_skp : decode 0b1110010110011110#16 = some (.skp 5) := by decide
theorem test_decode_sknp : decode 0b1110010110100001#16 = some (.sknp 5) := by decide
theorem test_decode_ldVxDt : decode 0b1111000100000111#16 = some (.ldVxDt 1) := by decide
theorem test_decode_ldVxK : decode 0b1111001000001010#16 = some (.ldVxK 2) := by decide
theorem test_decode_ldDtVx : decode 0b1111000000010101#16 = some (.ldDtVx 0) := by decide
theorem test_decode_ldStVx : decode 0b1111000000011000#16 = some (.ldStVx 0) := by decide
theorem test_decode_addIVx : decode 0b1111001000011110#16 = some (.addIVx 2) := by decide
theorem test_decode_ldFVx : decode 0b1111000000101001#16 = some (.ldFVx 0) := by decide
theorem test_decode_ldBVx : decode 0b1111101000110011#16 = some (.ldBVx 0xA) := by decide
theorem test_decode_ldMemVx : decode 0b1111001001010101#16 = some (.ldMemVx 2) := by decide
theorem test_decode_ldVxMem : decode 0b1111111101100101#16 = some (.ldVxMem 0xF) := by decide

/-- R76: a neighbour of a legal word in each family with a sub-opcode is refused. -/
theorem test_decode_refuses_neighbours :
    [decode 0x00E1, decode 0x00EF, decode 0x0123, decode 0x5121, decode 0x8128, decode 0x812F,
      decode 0x9121, decode 0xE19F, decode 0xE1A2, decode 0xF108, decode 0xF166, decode 0xFFFF]
      = List.replicate 12 none := by decide

/-- R56: the table's bits reach the decoder high byte first. -/
theorem test_decodeTableWord : decodeTableWord 16 0x8124 = some (.addReg 1 2) := by decide

/-- R56: the rest of the bytes is left over. -/
theorem test_decodeBytes : decodeBytes [0x6A, 0x7B, 0x12] = .ok (.ldImm 0xA 0x7B, [0x12]) := by
  decide

/-! ### Control flow (vectors CF1-CF16) -/

/-- CF1 -/
theorem test_ret : after (exec .ret { start with sp := 1, stack := start.stack.set 0 0x206, pc := 0x212 })
    (fun t => t.pc == 0x206 && t.sp == 0) = true := by decide
/-- CF2 -/
theorem test_ret_underflow : errs (exec .ret start) start .stackUnderflow 0x200 (some 0x00EE) none = true := by
  decide
/-- CF3 -/
theorem test_jp : after (exec (.jp 0x234) start) (fun t => t.pc == 0x234) = true := by decide
/-- CF6 -/
theorem test_call_top : after (exec (.call 0xABC) { start with pc := 0xFFE })
    (fun t => t.pc == 0xABC && t.sp == 1 && t.stack[0] == 0x1000) = true := by decide
/-- CF7 -/
theorem test_call_overflow : errs (exec (.call 0x300) { start with sp := 16 }) { start with sp := 16 }
    .stackOverflow 0x200 (some 0x2300) none = true := by decide
/-- CF8, CF9 -/
theorem test_seImm : (after (exec (.seImm 3 0) { start with pc := 0x208 }) (fun t => t.pc == 0x20C) &&
    after (exec (.seImm 3 0) ({ start with pc := 0x208 }.setReg 3 1)) (fun t => t.pc == 0x20A)) = true := by
  decide
/-- CF10 -/
theorem test_sneImm : (after (exec (.sneImm 0 5) (start.setReg 0 5)) (fun t => t.pc == 0x202) &&
    after (exec (.sneImm 0 6) (start.setReg 0 5)) (fun t => t.pc == 0x204)) = true := by decide
/-- CF11 -/
theorem test_seReg : after (exec (.seReg 1 2) { start2 0x10 0x10 with pc := 0x300 })
    (fun t => t.pc == 0x304) = true := by decide
/-- CF13, CF14 -/
theorem test_sneReg : (after (exec (.sneReg 1 2) { start2 0x10 0x11 with pc := 0x300 }) (fun t => t.pc == 0x304) &&
    after (exec (.sneReg 1 1) (start2 0x10 0x11)) (fun t => t.pc == 0x202)) = true := by decide
/-- CF16: the sum is not masked. -/
theorem test_jpV0 : after (exec (.jpV0 0xFFF) (start.setReg 0 0xFF)) (fun t => t.pc == 0x10FE) = true := by
  decide

/-! ### Arithmetic and logic (vectors AL1-AL27, S1) -/

/-- S1 -/
theorem test_ldImm : after (exec (.ldImm 0xA 0x7B) start) (fun t => t.reg 0xA == 0x7B && t.pc == 0x202) = true := by
  decide
/-- AL1 -/
theorem test_addImm : after (exec (.addImm 1 1) ((start2 0xFF 0).setReg 0xF 5))
    (fun t => t.reg 1 == 0 && t.reg 0xF == 5) = true := by decide
/-- AL3 -/
theorem test_ldReg : after (exec (.ldReg 1 2) (start2 0 0x33)) (fun t => t.reg 1 == 0x33) = true := by decide
/-- AL4; VF is not reset. -/
theorem test_orReg : after (exec (.orReg 1 2) ((start2 0xF0 0x0F).setReg 0xF 7))
    (fun t => t.reg 1 == 0xFF && t.reg 0xF == 7) = true := by decide
/-- AL6 -/
theorem test_andReg : after (exec (.andReg 1 2) (start2 0xF0 0x3C)) (fun t => t.reg 1 == 0x30) = true := by
  decide
/-- AL7 -/
theorem test_xorReg : after (exec (.xorReg 1 1) (start2 0x5A 0)) (fun t => t.reg 1 == 0) = true := by decide
/-- AL8, AL9 -/
theorem test_addReg : (after (exec (.addReg 1 2) (start2 0x02 0xFF)) (fun t => t.reg 1 == 1 && t.reg 0xF == 1) &&
    after (exec (.addReg 1 2) (start2 0x10 0x20)) (fun t => t.reg 1 == 0x30 && t.reg 0xF == 0)) = true := by
  decide
/-- AL11: the flag wins. -/
theorem test_addReg_flag_wins : after (exec (.addReg 0xF 2) ((start2 0 1).setReg 0xF 0xFF))
    (fun t => t.reg 0xF == 1) = true := by decide
/-- AL12-AL14 -/
theorem test_subReg : (after (exec (.subReg 1 2) (start2 5 3)) (fun t => t.reg 1 == 2 && t.reg 0xF == 1) &&
    after (exec (.subReg 1 2) (start2 3 5)) (fun t => t.reg 1 == 0xFE && t.reg 0xF == 0) &&
    after (exec (.subReg 1 2) (start2 7 7)) (fun t => t.reg 1 == 0 && t.reg 0xF == 1)) = true := by decide
/-- AL16: VF as the source is read before it is written. -/
theorem test_subReg_reads_vf : after (exec (.subReg 1 0xF) ((start2 0x10 0).setReg 0xF 0x20))
    (fun t => t.reg 1 == 0xF0 && t.reg 0xF == 0) = true := by decide
/-- AL17, AL18 -/
theorem test_subn : (after (exec (.subn 1 2) (start2 3 5)) (fun t => t.reg 1 == 2 && t.reg 0xF == 1) &&
    after (exec (.subn 1 2) (start2 5 3)) (fun t => t.reg 1 == 0xFE && t.reg 0xF == 0)) = true := by decide
/-- AL19, AL20 -/
theorem test_shr : (after (exec (.shr 1 2) (start2 0x05 0x80)) (fun t => t.reg 1 == 2 && t.reg 0xF == 1) &&
    after (exec (.shr 1 2) (((startQ false true).setReg 1 0x05).setReg 2 0x80))
      (fun t => t.reg 1 == 0x40 && t.reg 0xF == 0)) = true := by decide
/-- AL22, AL23 -/
theorem test_shl : (after (exec (.shl 1 2) (start2 0x81 0x01)) (fun t => t.reg 1 == 2 && t.reg 0xF == 1) &&
    after (exec (.shl 1 2) (((startQ false true).setReg 1 0x81).setReg 2 0x01))
      (fun t => t.reg 1 == 2 && t.reg 0xF == 0)) = true := by decide
/-- AL25, AL26: with the byte drawn given. -/
theorem test_rnd : ((rndWith 0x5A 3 0xF0 start).reg 3 == 0x50 && (rndWith 0xA5 3 0x0F start).reg 3 == 0x05) = true := by
  decide
/-- The draw is counted and `PC` moves on, whatever the byte. -/
theorem test_rnd_counts : after (exec (.rnd 3 0) start) (fun t => t.draws == 1 && t.pc == 0x202) = true := by
  decide

/-! ### Index and memory (vectors M1-M16) -/

/-- M1 -/
theorem test_ldI : after (exec (.ldI 0x300) start) (fun t => t.i == 0x300) = true := by decide
/-- M3, M4 -/
theorem test_addIVx : (after (exec (.addIVx 1) { start2 1 0 with i := 0xFFF }) (fun t => t.i == 0x1000) &&
    after (exec (.addIVx 1) { start2 2 0 with i := 0xFFFF }) (fun t => t.i == 1)) = true := by decide
/-- M6 -/
theorem test_ldFVx : after (exec (.ldFVx 1) (start2 0xF 0)) (fun t => t.i == 0x04B) = true := by decide
/-- M7 -/
theorem test_ldFVx_range : errs (exec (.ldFVx 1) (start2 0x10 0)) (start2 0x10 0)
    .operandOutOfRange 0x200 (some 0xF129) none = true := by decide
/-- M8 -/
theorem test_ldBVx : after (exec (.ldBVx 0) ({ start with i := 0x400 }.setReg 0 0x7B))
    (fun t => t.bytesAt 0x400 3 == [1, 2, 3] && t.i == 0x400) = true := by decide
/-- M10: no byte is written. -/
theorem test_ldBVx_bounds : errs (exec (.ldBVx 1) { start2 0xC8 0 with i := 0xFFE })
    { start2 0xC8 0 with i := 0xFFE } .addressOutOfBounds 0x200 (some 0xF133) (some 0x1000) = true := by
  decide
/-- S5: `I` under the quirk and without it. -/
theorem test_ldMemVx : (after (exec (.ldMemVx 2) (({ startQ true false with i := 0x300 }.setReg 1 7).setReg 2 9))
      (fun t => t.i == 0x303 && t.bytesAt 0x300 3 == [0, 7, 9]) &&
    after (exec (.ldMemVx 2) { start2 7 9 with i := 0x300 })
      (fun t => t.i == 0x300 && t.bytesAt 0x300 4 == [0, 7, 9, 0])) = true := by decide
/-- M13: the lowest address out of range. -/
theorem test_ldMemVx_bounds : errs (exec (.ldMemVx 0) { start with i := 0x1200 }) { start with i := 0x1200 }
    .addressOutOfBounds 0x200 (some 0xF055) (some 0x1200) = true := by decide
/-- M14 without the quirk and with it. -/
theorem test_ldVxMem : (after (exec (.ldVxMem 2) { start.writeBytes 0x300 [1, 2, 3] with i := 0x300 })
      (fun t => t.reg 0 == 1 && t.reg 1 == 2 && t.reg 2 == 3 && t.reg 3 == 0 && t.i == 0x300) &&
    after (exec (.ldVxMem 2) { (startQ true false).writeBytes 0x300 [1, 2, 3] with i := 0x300 })
      (fun t => t.reg 2 == 3 && t.i == 0x303)) = true := by decide
/-- M15 -/
theorem test_ldVxMem_bounds : errs (exec (.ldVxMem 0xF) { start with i := 0xFF1 }) { start with i := 0xFF1 }
    .addressOutOfBounds 0x200 (some 0xFF65) (some 0x1000) = true := by decide

/-! ### Display (vectors DP1-DP9) -/

/-- DP1 -/
theorem test_cls : after (exec .cls (lit 3 5 start)) (fun t => !t.pixel 3 5 && t.displayUpdated) = true := by
  decide
/-- DP5: one pixel on, one off, a collision. -/
theorem test_drw : after (exec (.drw 0 0 1) (lit 0 1 { start.writeBytes 0x300 [0xC0] with i := 0x300 }))
    (fun t => t.pixel 0 0 && !t.pixel 0 1 && t.reg 0xF == 1 && t.displayUpdated) = true := by decide
/-- DP9: the edges wrap. -/
theorem test_drw_wraps : after
    (exec (.drw 1 2 1) { (start2 0x3E 0x1F).writeBytes 0x300 [0xF0] with i := 0x300 })
    (fun t => t.pixel 31 62 && t.pixel 31 63 && t.pixel 31 0 && t.pixel 31 1 && !t.pixel 31 2 &&
      t.reg 0xF == 0) = true := by decide

/-! ### Timers and input (vectors T1-T15) -/

/-- T8 -/
theorem test_skp : after (exec (.skp 5) (keySet 0xA true ({ start with pc := 0x300 }.setReg 5 0xA)))
    (fun t => t.pc == 0x304) = true := by decide
/-- T10 -/
theorem test_skp_range : errs (exec (.skp 1) (start2 0x10 0)) (start2 0x10 0)
    .operandOutOfRange 0x200 (some 0xE19E) none = true := by decide
/-- T9 -/
theorem test_sknp : after (exec (.sknp 5) ({ start with pc := 0x300 }.setReg 5 0xA))
    (fun t => t.pc == 0x304) = true := by decide
/-- T1 -/
theorem test_ldVxDt : after (exec (.ldVxDt 1) { start with dt := 0xF }) (fun t => t.reg 1 == 0xF) = true := by
  decide
/-- T2 -/
theorem test_ldDtVx : after (exec (.ldDtVx 0) (start.setReg 0 0x10)) (fun t => t.dt == 0x10) = true := by decide
/-- T3, T4 -/
theorem test_ldStVx : (after (exec (.ldStVx 0) (start.setReg 0 0x20)) (fun t => t.st == 0x20 && t.toneActive) &&
    after (exec (.ldStVx 0) { start with st := 5 }) (fun t => t.st == 0 && !t.toneActive)) = true := by decide
/-- T11, first cycle: the keys are not sampled. -/
theorem test_ldVxK : after (exec (.ldVxK 0) (keySet 3 true start))
    (fun t => t.wait == .awaitingKey 0 && t.pc == 0x200 && t.reg 0 == 0) = true := by decide
/-- T12, second cycle: the least key. -/
theorem test_key_wait : after
    (cpuCycle (keySet 4 true (keySet 9 true { start with wait := .awaitingKey 5 })))
    (fun t => t.reg 5 == 4 && t.pc == 0x202 && t.wait == .running) = true := by decide
/-- T5, T6 -/
theorem test_timerTick : ((timerTick { start with dt := 1 }).dt == 0 &&
    (timerTick { start with dt := 1 }).st == 0 && (timerTick { start with st := 2 }).st == 1) = true := by decide
/-- T14: no timer tick before CPU tick 2, one before CPU tick 3. -/
theorem test_schedule : [ticksBeforeCpuTick 120 1, ticksBeforeCpuTick 120 2, ticksBeforeCpuTick 120 3]
    = [0, 0, 1] := by decide
/-- S4: the timer ticks up to 1 s at 1000 Hz, and up to 1 s at 10 Hz but for those at 1 s. -/
theorem test_schedule_rate : [ticksBeforeCpuTick 1000 1001, ticksBeforeCpuTick 10 10] = [60, 59] := by decide

/-! ### The cycle and the step -/

/-- S8 -/
theorem test_cycle_unknown : errs (cpuCycle (start.placeWord 0xFFFF)) (start.placeWord 0xFFFF)
    .unknownOpcode 0x200 (some 0xFFFF) none = true := by decide
/-- S10 -/
theorem test_cycle_bounds : errs (cpuCycle { start with pc := 0xFFF }) { start with pc := 0xFFF }
    .addressOutOfBounds 0xFFF none (some 0xFFF) = true := by decide
/-- T15 -/
theorem test_step_halted : step halted = .next halted := rfl
/-- R56, R90: the placed word is the one that runs. -/
theorem test_step_runs : after (step (start.withFetchWord 16 0x6A7B))
    (fun t => t.reg 0xA == 0x7B && t.pc == 0x202 && t.driver == ⟨1, 0⟩) = true := by decide
/-- R253: the third step at 120 Hz is preceded by a timer tick. -/
theorem test_step_ticks : after (step ({ start with dt := 5, driver := ⟨2, 0⟩ }.withFetchWord 16 0xF107))
    (fun t => t.reg 1 == 4 && t.dt == 4 && t.driver == ⟨3, 1⟩) = true := by decide
/-- R274: a ROM with nothing in it halts on the word 0000 in its first cycle. -/
theorem test_first_step_from_reset : after (step State.reset)
    (fun t => t.status == .halted ⟨.unknownOpcode, 0x200, some 0x0000, none⟩) = true := by decide
/-- R270: the ROM lies at 0x200, high byte of the first word first. -/
theorem test_init : ((init [0x6A, 0x7B] (conf false false)).toOption.map fun s =>
    (s.bytesAt 0x200 3, s.bytesAt 0x4B 5, s.pc)) =
      some ([0x6A, 0x7B, 0], [0xF0, 0x80, 0xF0, 0x80, 0x80], 0x200) := by decide

/-! ### Witnesses: a concrete state and operands that meet all hypotheses of each obligation, for each
clause at a boundary of its range -/

theorem witness_EncodeOfDecodeIsSelf : decode 0x8124 = some (.addReg 1 2) := by decide
theorem witness_OpcodeMapRowsAreDisjoint : ∃ (w : Word) (r r' : OpcodeRow), r ∈ opcodeMap ∧
    r' ∈ opcodeMap ∧ w &&& r.mask = r.pattern ∧ w &&& r'.mask = r'.pattern :=
  ⟨0x8124, ⟨0x8004, 0xF00F⟩, ⟨0x8004, 0xF00F⟩, by decide⟩
/-- Both sides of `DecodeAcceptsExactlyTheOpcodeMap` hold of one word and fail of its neighbour. -/
theorem witness_DecodeAcceptsExactlyTheOpcodeMap :
    (opcodeMap.any fun r => r.covers 0x5120) = true ∧ (opcodeMap.any fun r => r.covers 0x5121) = false := by
  decide

theorem witness_CycleFetchesDecodesExecutes_bounds :
    ∃ s : State, s.fetches ∧ 0xFFF ≤ s.pc.toNat := ⟨{ start with pc := 0xFFF }, by decide⟩
theorem witness_CycleFetchesDecodesExecutes_illegal : ∃ s : State, s.fetches ∧ s.pc.toNat ≤ 0xFFE ∧
    decode (joinBytes (s.byteAt s.pc.toNat) (s.byteAt (s.pc.toNat + 1))) = none :=
  ⟨{ start with pc := 0xFFE }, by decide⟩
theorem witness_CycleFetchesDecodesExecutes_legal : ∃ s : State, s.fetches ∧ s.pc.toNat ≤ 0xFFE ∧
    decode (joinBytes (s.byteAt s.pc.toNat) (s.byteAt (s.pc.toNat + 1))) = some (.jp 0x234) :=
  ⟨{ start with pc := 0xFFE }.placeWord 0x1234, by decide⟩
theorem witness_FetchIsBigEndianWithinMemory : ∃ s t : State, s.pc.toNat = 0xFFF ∧ t.pc.toNat = 0xFFE :=
  ⟨{ start with pc := 0xFFF }, { start with pc := 0xFFE }, by decide⟩
theorem witness_StepRunsTheDecodedInstruction : ∃ (s : State) (i : Instr), s.fetches ∧ s.fetchesInstr i :=
  ⟨start.placeWord 0xF107, .ldVxDt 1, by decide⟩
/-- The tie: timer tick 1 and CPU tick 2 at 120 Hz. -/
theorem witness_TimerTickPrecedesCpuTickByTime : ¬ 1 ≤ ticksBeforeCpuTick 120 2 ∧ ¬ 120 * 1 < 60 * 2 ∧
    1 ≤ ticksBeforeCpuTick 120 3 ∧ 120 * 1 < 60 * 3 := by decide
theorem witness_HaltedIsPermanent : ∃ (s : State) (e : ErrorRecord), s.status = .halted e :=
  ⟨halted, _, rfl⟩
theorem witness_ErrorChangesOnlyStatus : ∃ (i : Instr) (s t : State) (e : ErrorRecord),
    s.isActive ∧ exec i s = .next t ∧ t.status = .halted e :=
  ⟨.ldBVx 1, { start with i := 0xFFE }, _, _, rfl, rfl, rfl⟩
theorem witness_TimerTickCountsDown : start.isActive := rfl

theorem witness_ReturnPopsTheStack_full : ∃ s : State, 0 < s.sp.toNat ∧ s.sp.toNat = 16 :=
  ⟨{ start with sp := 16 }, by decide⟩
theorem witness_ReturnPopsTheStack_empty : ∃ s : State, s.sp = 0 := ⟨start, by decide⟩
theorem witness_CallPushesAndJumps : ∃ s t : State, s.sp.toNat = 15 ∧ t.sp = 16 :=
  ⟨{ start with sp := 15 }, { start with sp := 16 }, by decide⟩
theorem witness_CallThenReturnComesBack : ∃ s : State, s.sp.toNat < 16 := ⟨{ start with sp := 15 }, by decide⟩

/-- The source with the quirk and without it. -/
theorem witness_ShiftRight : ∃ s t : State,
    (0x80#8 = if s.cfg.shiftYQuirk = true then s.reg 2 else s.reg 1) ∧ s.cfg.shiftYQuirk = true ∧
    (0x05#8 = if t.cfg.shiftYQuirk = true then t.reg 2 else t.reg 1) ∧ t.cfg.shiftYQuirk = false :=
  ⟨((startQ false true).setReg 1 0x05).setReg 2 0x80, start2 0x05 0x80, by decide⟩
theorem witness_ShiftLeft : ∃ s t : State,
    (0x01#8 = if s.cfg.shiftYQuirk = true then s.reg 2 else s.reg 1) ∧ s.cfg.shiftYQuirk = true ∧
    (0x81#8 = if t.cfg.shiftYQuirk = true then t.reg 2 else t.reg 1) ∧ t.cfg.shiftYQuirk = false :=
  ⟨((startQ false true).setReg 1 0x81).setReg 2 0x01, start2 0x81 0x01, by decide⟩

theorem witness_IndexPointsAtGlyph : ∃ s t : State,
    (s.cfg.wf = true ∧ (s.reg 1).toNat = 0xF) ∧ (t.reg 1).toNat = 0x10 :=
  ⟨start2 0xF 0, start2 0x10 0, by decide⟩
theorem witness_DecimalDigitsStored : ∃ s t : State, s.i.toNat + 2 = 0xFFF ∧ 0xFFF + 1 = t.i.toNat + 2 :=
  ⟨{ start with i := 0xFFD }, { start with i := 0xFFE }, by decide⟩
theorem witness_RegistersStored : ∃ (s t : State) (x : Nibble), s.i.toNat + x.toNat = 0xFFF ∧
    0xFFF + 1 = t.i.toNat + x.toNat :=
  ⟨{ start with i := 0xFF0 }, { start with i := 0xFF1 }, 0xF, by decide⟩
theorem witness_RegistersLoaded : ∃ (s t : State) (x : Nibble), s.i.toNat + x.toNat = 0xFFF ∧
    0xFFF + 1 = t.i.toNat + x.toNat :=
  ⟨{ start with i := 0xFFF }, { start with i := 0x1000 }, 0, by decide⟩
theorem witness_StoredRegistersLoadBack : ∃ (x : Nibble) (s t u : State), s.i.toNat + x.toNat ≤ 0xFFF ∧
    exec (.ldMemVx x) s = .next t ∧ u.mem = t.mem ∧ u.cfg = t.cfg ∧ u.i = s.i :=
  ⟨2, { start2 7 9 with i := 0x300 }, _, _, by decide, rfl, rfl, rfl, rfl⟩

/-- `mem[300] = 80` with `I` there: a sprite of one bit. -/
def dot : State := { start.writeBytes 0x300 [0x80] with i := 0x300 }

theorem dot_hits_origin : dot.spriteHits 0 0 1 0 0 :=
  ⟨0, 0, by decide, by decide, by decide, by decide, by decide⟩

/-- In bounds at the last byte of memory, and with no row at all; out of bounds by one. -/
theorem witness_DrawInvertsTheSpritePixels : ∃ s t u : State,
    ((15 : Nibble) ≠ 0 ∧ s.i.toNat + (15 : Nibble).toNat - 1 = 0xFFF) ∧ t.i.toNat = 0xFFFF ∧
    ((15 : Nibble) ≠ 0 ∧ 0xFFF + 1 = u.i.toNat + (15 : Nibble).toNat - 1) :=
  ⟨{ start with i := 0xFF1 }, { start with i := 0xFFFF }, { start with i := 0xFF2 }, by decide⟩
theorem witness_DrawInvertsTheSpritePixels_collision : ∃ (s : State) (py : Fin 32) (px : Fin 64),
    s.spriteHits 0 0 1 py px ∧ s.pixel py px = true := ⟨lit 0 0 dot, 0, 0, dot_hits_origin, by decide⟩
theorem witness_DrawInvertsTheSpritePixels_free : ∃ s : State, (∃ py px, s.spriteHits 0 0 1 py px) ∧
    ∀ py px, s.spriteHits 0 0 1 py px → s.pixel py px = false := by
  refine ⟨dot, ⟨0, 0, dot_hits_origin⟩, fun py px _ => ?_⟩
  show (Vector.replicate 32 (Vector.replicate 64 false))[py.val][px.val] = false
  rw [Vector.getElem_replicate, Vector.getElem_replicate]
theorem witness_DrawTwiceRestoresTheDisplay : ∃ (s t : State) (py : Fin 32) (px : Fin 64),
    (0 : Nibble) ≠ 0xF ∧ ((1 : Nibble) = 0 ∨ s.i.toNat + (1 : Nibble).toNat - 1 ≤ 0xFFF) ∧
    exec (.drw 0 0 1) s = .next t ∧ s.spriteHits 0 0 1 py px ∧ s.pixel py px = false :=
  ⟨dot, _, 0, 0, by decide, by decide, rfl, dot_hits_origin, by decide⟩
/-- Every pixel under the one set bit is on before the first draw. -/
theorem witness_DrawTwiceRestoresTheDisplay_lit :
    ∀ py px, (lit 0 0 dot).spriteHits 0 0 1 py px → (lit 0 0 dot).pixel py px = true := by
  rintro py px ⟨r, c, hr, hc, hb, hx, hy⟩
  have hr0 : r = 0 := by simp at hr; omega
  subst hr0
  have hb' : (0x80#8).getLsbD (7 - c) = true := hb
  have hc0 : c = 0 := (by decide : ∀ c < 8, (0x80#8).getLsbD (7 - c) = true → c = 0) c hc hb'
  subst hc0
  obtain rfl : px = 0 := Fin.ext hx
  obtain rfl : py = 0 := Fin.ext hy
  decide
theorem witness_SecondDrawAlwaysCollides : ∃ s t u : State, (0 : Nibble) ≠ 0xF ∧
    exec (.drw 0 0 1) s = .next t ∧ exec (.drw 0 0 1) t = .next u ∧ u.isActive ∧
    ∃ py px, s.spriteHits 0 0 1 py px :=
  ⟨lit 0 0 dot, _, _, by decide, rfl, rfl, rfl, 0, 0, dot_hits_origin⟩

theorem witness_SkipsOnKey : ∃ (s t : State) (k : Nibble), (s.reg 1).toNat = k.toNat ∧ k.toNat = 0xF ∧
    (t.reg 1).toNat = 0x10 := ⟨start2 0xF 0, start2 0x10 0, 0xF, by decide⟩
theorem witness_KeyWaitEndsWithLeastKey : ∃ (s t : State) (k : Nibble), s.awaits 5 ∧ s.key k = true ∧
    (∀ j : Nibble, j.toNat < k.toNat → s.key j = false) ∧ t.awaits 5 ∧ ∀ j : Nibble, t.key j = false :=
  ⟨keySet 4 true (keySet 9 true { start with wait := .awaitingKey 5 }),
    { start with wait := .awaitingKey 5 }, 4, by decide⟩

theorem witness_InitConstructsTheState : ∃ (rom rom' : List Byte) (cfg : Config), cfg.wf = true ∧
    rom.length = 3584 ∧ 3584 + 1 = rom'.length :=
  ⟨List.replicate 3584 0, List.replicate 3585 0, conf false false, by decide,
    List.length_replicate, List.length_replicate.symm⟩
/-- An address outside the font and outside a ROM of two bytes, at the ends of both. -/
theorem witness_InitConstructsTheState_outside :
    ((80 < (conf false false).fontBase.toNat ∨ (conf false false).fontBase.toNat + 80 ≤ 80) ∧
      (80 < 0x200 ∨ 0x200 + 2 ≤ 80)) ∧
    ((0x202 < (conf false false).fontBase.toNat ∨ (conf false false).fontBase.toNat + 80 ≤ 0x202) ∧
      (0x202 < 0x200 ∨ 0x200 + 2 ≤ 0x202)) := by decide
theorem witness_InitMeetsTheInvariant : ∃ (rom : List Byte) (cfg : Config) (s : State),
    init rom cfg = .ok s := ⟨[0x6A, 0x7B], conf false false, _, rfl⟩

theorem start_inv : start.Inv :=
  ⟨by decide, by decide, by decide, by decide, (fun x h => by cases h), by decide,
    (fun e h => by cases h)⟩
theorem halted_inv : halted.Inv :=
  ⟨by decide, by decide, by decide, by decide, (fun x h => by cases h), by decide,
    (fun e h => by cases h; decide)⟩
theorem witness_StepKeepsTheInvariant : ∃ s t : State, s.Inv ∧ step s = .next t := ⟨start, _, start_inv, rfl⟩
theorem witness_StepNeverStops : ∃ s : State, s.Inv := ⟨halted, halted_inv⟩
theorem witness_AnyEventOrderKeepsTheCoreLegal : ∃ (es : List Event) (s t : State), s.Inv ∧
    runEvents es s = .next t ∧ es = [.timerTick, .keySet 3 true, .cpuTick] :=
  ⟨_, start, _, start_inv, rfl, rfl⟩

theorem witness_StepNeverWritesConfigOrKeys : ∃ s t : State, step s = .next t := ⟨start, _, rfl⟩
theorem witness_OnlyStoresWriteMemory : ∃ (i : Instr) (s t : State), (∀ x, i ≠ .ldBVx x) ∧
    (∀ x, i ≠ .ldMemVx x) ∧ exec i s = .next t :=
  ⟨.ldVxMem 3, start, _, (fun _ h => by cases h), (fun _ h => by cases h), rfl⟩
theorem witness_OnlyCallAndReturnTouchTheStack : ∃ (i : Instr) (s t : State), exec i s = .next t ∧
    (∀ nnn, i ≠ .call nnn) ∧ i ≠ .ret := ⟨.jp 0x300, start, _, rfl, (fun _ h => by cases h), by decide⟩
theorem witness_OnlyDisplayInstructionsTouchTheDisplay : ∃ (i : Instr) (s t : State),
    exec i s = .next t ∧ i ≠ .cls ∧ ∀ x y n, i ≠ .drw x y n :=
  ⟨.jp 0x300, start, _, rfl, by decide, (fun _ _ _ h => by cases h)⟩
theorem witness_DisplayUpdatedTellsADraw : ∃ s t : State, s.isActive ∧ cpuCycle s = .next t ∧
    t.displayUpdated = true := ⟨start.placeWord 0x00E0, _, by decide, rfl, by decide⟩
theorem witness_OnlyKeyWaitInstructionWaits : ∃ (i : Instr) (s t : State), exec i s = .next t ∧
    ∀ x, i ≠ .ldVxK x := ⟨.jp 0x300, start, _, rfl, (fun _ h => by cases h)⟩
theorem witness_FlagWritersAreTheListedOnes : ∃ (i : Instr) (s t : State), exec i s = .next t ∧
    t.reg 0xF ≠ s.reg 0xF := ⟨.addReg 1 2, start2 0x02 0xFF, _, rfl, by decide⟩
theorem witness_NextPcByClass : ∃ (i : Instr) (s t : State), s.isActive ∧ exec i s = .next t ∧
    t.isActive := ⟨.ret, { start with sp := 1 }, _, rfl, rfl, rfl⟩

end Sys2Proof.Tests
end

/-! ### Progress: no step stops (R13, R25, R90) -/

section
namespace Sys2Proof.Machine

/-- The body of an instruction completes or raises an error of the spec (R11); it does not end in
the model's own fault (log 10). -/
def faultFree {α : Type} (m : Except Stop α) : Prop := ∀ f, m ≠ .error (.fault f)

theorem faultFree_ok {α : Type} (a : α) : faultFree (.ok a) :=
  fun _ h => nomatch h

theorem faultFree_raise {α : Type} (kind : ErrorKind) (addr : Option Nat) :
    faultFree (.error (.raise kind addr) : Except Stop α) :=
  fun _ h => nomatch h

theorem loadBytes_faultFree (a n : Nat) (s : State) : faultFree (loadBytes a n s) := by
  rcases loadBytes_spec a n s with ⟨-, h⟩ | ⟨-, h⟩ <;> rw [h]
  · exact faultFree_ok _
  · exact faultFree_raise _ _

theorem storeBytes_faultFree (a : Nat) (bs : List Byte) (s : State) :
    faultFree (storeBytes a bs s) := by
  rcases storeBytes_spec a bs s with ⟨-, h⟩ | ⟨-, h⟩ <;> rw [h]
  · exact faultFree_ok _
  · exact faultFree_raise _ _

theorem nibbleOperand_faultFree (x : Nibble) (s : State) : faultFree (nibbleOperand x s) := by
  rcases nibbleOperand_spec x s with ⟨-, h⟩ | ⟨-, h⟩ <;> rw [h]
  · exact faultFree_ok _
  · exact faultFree_raise _ _

/-- With `SP` legal the pushed entry exists or the stack is full (R25, R110). -/
theorem push_faultFree (a : Word) {s : State} (hsp : s.sp.toNat ≤ 16) : faultFree (push a s) := by
  rcases push_spec a s hsp with ⟨_, h⟩ | ⟨-, h⟩ <;> rw [h]
  · exact faultFree_ok _
  · exact faultFree_raise _ _

/-- With `SP` legal the popped entry exists or the stack is empty (R25, R111). -/
theorem pop_faultFree {s : State} (hsp : s.sp.toNat ≤ 16) : faultFree (pop s) := by
  rcases pop_spec s hsp with ⟨_, -, h⟩ | ⟨-, h⟩ <;> rw [h]
  · exact faultFree_ok _
  · exact faultFree_raise _ _

/-- Every body of the model that can fail is one checked operation followed by pure writes; its cycle
answers a next state when that operation is free of the fault (R96, R97). -/
theorem commit_bind_answers {α : Type} {m : Except Stop α} (hm : faultFree m) (ins : Instr)
    (s : State) (k : α → State) : ∃ t, commit ins s (m >>= fun a => pure (k a)) = .next t := by
  match m, hm with
  | .ok a, _ => exact ⟨k a, rfl⟩
  | .error (.raise _ _), _ => exact ⟨_, rfl⟩
  | .error (.fault f), hm => exact absurd rfl (hm f)

/-- With `SP` legal every instruction completes or enters the error its rule names. The arms named
here are those with a checked operation; the others answer their next state outright. -/
theorem exec_answers (i : Instr) {s : State} (hsp : s.sp.toNat ≤ 16) :
    ∃ t, exec i s = .next t := by
  cases i with
  | ret => exact commit_bind_answers (pop_faultFree hsp) .ret s fun p => p.2.setPc p.1
  | call nnn => exact commit_bind_answers (push_faultFree _ hsp) _ s _
  | drw x y n => exact commit_bind_answers (loadBytes_faultFree _ _ s) _ s _
  | skp x => exact commit_bind_answers (nibbleOperand_faultFree x s) _ s _
  | sknp x => exact commit_bind_answers (nibbleOperand_faultFree x s) _ s _
  | ldFVx x => exact commit_bind_answers (nibbleOperand_faultFree x s) _ s _
  | ldBVx x => exact commit_bind_answers (storeBytes_faultFree _ _ s) _ s _
  | ldMemVx x => exact commit_bind_answers (storeBytes_faultFree _ _ s) _ s _
  | ldVxMem x => exact commit_bind_answers (loadBytes_faultFree _ _ s) _ s _
  | _ => exact ⟨_, rfl⟩

/-- A legal `SP` is all a step needs to answer a next state. -/
theorem step_answers {s : State} (hsp : s.sp.toNat ≤ 16) : ∃ t, step s = .next t := by
  rcases step_cases s with ⟨_, -, h⟩ | ⟨_, -, -, h⟩ | ⟨-, -, h⟩ | ⟨_, -, -, -, h⟩ |
    ⟨_, ins, -, -, -, h⟩
  case inr.inr.inr.inr => exact h ▸ exec_answers ins hsp
  all_goals exact ⟨_, h⟩

/-- Settles O50: a step is a halted core's stay, a key check, an error entry, or `exec` with `SP`
legal by the invariant. -/
theorem stepNeverStops : Obligations.StepNeverStops :=
  fun _ hinv => step_answers hinv.spLegal

end Sys2Proof.Machine
end

/-! ### The word an instruction was decoded from (R73, R74, R77) -/

section
namespace Sys2Proof

theorem nibble_eq_ofNat {n : Nibble} {k : Nat} (h : n.toNat = k) : n = BitVec.ofNat 4 k := by
  rw [← h, BitVec.ofNat_toNat, BitVec.setWidth_eq]

/-- The `0` family is decoded from its two words only (R74). -/
theorem encode_of_decodeWhole {w : Word} {i : Instr} (h : decodeWhole w = some i) :
    encode i = w := by
  unfold decodeWhole at h
  split_ifs at h with h₁ h₂ <;> cases h
  · exact h₁.symm
  · exact h₂.symm

/-- The `8` family is told apart by `N`, the last field of its word (R74). -/
theorem encode_of_decodeAlu {x y n : Nibble} {i : Instr} (h : decodeAlu x y n = some i) :
    encode i = formatRR 0x8 x y n := by
  unfold decodeAlu at h
  split at h
  case h_10 => cases h
  all_goals next hn => cases h; rw [nibble_eq_ofNat hn]; rfl

/-- The `E` family is told apart by `NN`, the last field of its word (R74). -/
theorem encode_of_decodeKey {x : Nibble} {nn : Byte} {i : Instr} (h : decodeKey x nn = some i) :
    encode i = formatRI 0xE x nn := by
  unfold decodeKey at h
  split_ifs at h <;> cases h <;> subst nn <;> rfl

/-- The `F` family is told apart by `NN`, the last field of its word (R74). -/
theorem encode_of_decodeMisc {x : Nibble} {nn : Byte} {i : Instr}
    (h : decodeMisc x nn = some i) : encode i = formatRI 0xF x nn := by
  unfold decodeMisc at h
  split_ifs at h <;> cases h <;> subst nn <;> rfl

/-- No bit of a legal word is a don't-care: an instruction's own word is the word it was decoded
from (R77). The fields of the word make it up again, family by family. -/
theorem encode_of_decode {w : Word} {i : Instr} (h : decode w = some i) : encode i = w := by
  have hA := formatA_fields w
  have hRI := formatRI_fields w
  have hRR := formatRR_fields w
  unfold decode at h
  split at h
  case h_1 => exact encode_of_decodeWhole h
  case h_17 => cases h
  all_goals rename_i ho; rw [nibble_eq_ofNat ho] at hA hRI hRR
  case h_2 | h_3 | h_11 | h_12 => cases h; exact hA
  case h_4 | h_5 | h_7 | h_8 | h_13 => cases h; exact hRI
  case h_6 | h_10 =>
    split_ifs at h with hn
    cases h
    rw [hn] at hRR
    exact hRR
  case h_9 => rw [encode_of_decodeAlu h]; exact hRR
  case h_14 => cases h; exact hRR
  case h_15 => rw [encode_of_decodeKey h]; exact hRI
  case h_16 => rw [encode_of_decodeMisc h]; exact hRI

end Sys2Proof
end

/-! ### What each update of the state may change

Frames grow one update at a time: each lemma takes what changed from `s` to `t` and a proof that the
part the next update writes is named. -/

section
namespace Sys2Proof.Machine

variable {P Q : Part → Prop} {s t u : State}

theorem onlyChanges.refl : onlyChanges P s s := by
  intro p _; cases p <;> rfl

theorem onlyChanges.mono (h : onlyChanges P s t) (hPQ : ∀ p, P p → Q p) : onlyChanges Q s t :=
  fun p hp => h p (mt (hPQ p) hp)

theorem onlyChanges.setReg {x : Nibble} (h : onlyChanges P s t) (hx : P (.reg x)) (b : Byte) :
    onlyChanges P s (t.setReg x b) := by
  intro p hp
  cases p with
  | reg y =>
    have hyx : y ≠ x := fun he => hp (he ▸ hx)
    exact (State.reg_setReg t x y b).trans ((if_neg hyx).trans (h _ hp))
  | _ => exact h _ hp

theorem onlyChanges.setFlag (h : onlyChanges P s t) (hvf : P (.reg vf)) (c : Bool) :
    onlyChanges P s (t.setFlag c) :=
  h.setReg hvf (flagByte c)

/-- `FX65` writes the registers that the list has a byte for (R175). -/
theorem onlyChanges.setRegs (h : onlyChanges P s t) {bs : List Byte}
    (hbs : ∀ x : Nibble, x.toNat < bs.length → P (.reg x)) : onlyChanges P s (t.setRegs bs) := by
  intro p hp
  cases p with
  | reg x =>
    have hx : bs.length ≤ x.toNat := not_lt.1 fun hlt => hp (hbs x hlt)
    have hkept : (t.setRegs bs).reg x = t.reg x := by simp [List.getElem?_eq_none hx]
    exact hkept.trans (h _ hp)
  | _ => simpa [Part.same] using h _ hp

theorem onlyChanges.setI (h : onlyChanges P s t) (hi : P .i) (a : Word) :
    onlyChanges P s (t.setI a) := by
  intro p hp; cases p with
  | i => exact absurd hi hp
  | _ => exact h _ hp

theorem onlyChanges.bumpIndex (h : onlyChanges P s t) (hi : t.cfg.storeLoadQuirk = true → P .i)
    (x : Nibble) : onlyChanges P s (t.bumpIndex x) := by
  unfold State.bumpIndex
  split
  · next hq => exact h.setI (hi hq) _
  · exact h

theorem onlyChanges.setPc (h : onlyChanges P s t) (hpc : P .pc) (a : Word) :
    onlyChanges P s (t.setPc a) := by
  intro p hp; cases p with
  | pc => exact absurd hpc hp
  | _ => exact h _ hp

theorem onlyChanges.advance (h : onlyChanges P s t) (hpc : P .pc) : onlyChanges P s t.advance :=
  h.setPc hpc _

theorem onlyChanges.skipIf (h : onlyChanges P s t) (hpc : P .pc) (c : Bool) :
    onlyChanges P s (t.skipIf c) :=
  h.setPc hpc _

theorem onlyChanges.result {x : Nibble} (h : onlyChanges P s t) (hx : P (.reg x)) (hpc : P .pc)
    (b : Byte) : onlyChanges P s (t.result x b) :=
  (h.setReg hx b).advance hpc

theorem onlyChanges.resultFlag {x : Nibble} (h : onlyChanges P s t) (hx : P (.reg x))
    (hvf : P (.reg vf)) (hpc : P .pc) (b : Byte) (c : Bool) :
    onlyChanges P s (t.resultFlag x b c) :=
  ((h.setReg hx b).setFlag hvf c).advance hpc

theorem onlyChanges.setDt (h : onlyChanges P s t) (hdt : P .dt) (b : Byte) :
    onlyChanges P s (t.setDt b) := by
  intro p hp; cases p with
  | dt => exact absurd hdt hp
  | _ => exact h _ hp

theorem onlyChanges.setSt (h : onlyChanges P s t) (hst : P .st) (b : Byte) :
    onlyChanges P s (t.setSt b) := by
  intro p hp; cases p with
  | st => exact absurd hst hp
  | _ => exact h _ hp

theorem onlyChanges.setWait (h : onlyChanges P s t) (hw : P .wait) (w : Wait) :
    onlyChanges P s (t.setWait w) := by
  intro p hp; cases p with
  | wait => exact absurd hw hp
  | _ => exact h _ hp

theorem onlyChanges.setDisplayUpdated (h : onlyChanges P s t) (hd : P .displayUpdated) (b : Bool) :
    onlyChanges P s (t.setDisplayUpdated b) := by
  intro p hp; cases p with
  | displayUpdated => exact absurd hd hp
  | _ => exact h _ hp

theorem onlyChanges.setFb (h : onlyChanges P s t) (hfb : ∀ y x, P (.pixel y x))
    (f : Framebuffer) : onlyChanges P s (t.setFb f) := by
  intro p hp; cases p with
  | pixel y x => exact absurd (hfb y x) hp
  | _ => exact h _ hp

theorem onlyChanges.countDraw (h : onlyChanges P s t) (hd : P .draws) :
    onlyChanges P s t.countDraw := by
  intro p hp; cases p with
  | draws => exact absurd hd hp
  | _ => exact h _ hp

theorem onlyChanges.halt (h : onlyChanges P s t) (hst : P .status) (e : ErrorRecord) :
    onlyChanges P s (t.halt e) := by
  intro p hp; cases p with
  | status => exact absurd hst hp
  | _ => exact h _ hp

theorem onlyChanges.writeBytes (h : onlyChanges P s t) {a : Nat} {bs : List Byte}
    (hbs : ∀ k < bs.length, P (.byte (a + k))) : onlyChanges P s (t.writeBytes a bs) := by
  intro p hp
  cases p with
  | byte c =>
    have hout : ¬ (a ≤ c ∧ c - a < bs.length) := fun ⟨hac, hlt⟩ =>
      hp (Nat.add_sub_cancel' hac ▸ hbs (c - a) hlt)
    exact (State.byteAt_writeBytes t a bs c).trans ((dif_neg hout).trans (h _ hp))
  | _ => exact h _ hp

/-! #### What the checked operations answer, with no condition on the state -/

theorem storeBytes_ok {a : Nat} {bs : List Byte} (h : storeBytes a bs s = .ok u) :
    u = s.writeBytes a bs := by
  rcases storeBytes_spec a bs s with ⟨-, he⟩ | ⟨-, he⟩ <;> rw [he] at h <;> cases h
  rfl

theorem loadBytes_ok {a n : Nat} {bs : List Byte} (h : loadBytes a n s = .ok bs) :
    bs = s.bytesAt a n := by
  rcases loadBytes_spec a n s with ⟨-, he⟩ | ⟨-, he⟩ <;> rw [he] at h <;> cases h
  rfl

theorem push_ok {a : Word} (h : push a s = .ok u) : ∃ hlt : s.sp.toNat < 16,
    u = { s with stack := s.stack.set s.sp.toNat a, sp := s.sp + 1 } := by
  unfold push at h
  split_ifs at h with _ hlt
  cases h
  exact ⟨hlt, rfl⟩

theorem pop_ok {p : Word × State} (h : pop s = .ok p) : ∃ hlt : s.sp.toNat - 1 < 16,
    0 < s.sp.toNat ∧ p = (s.stack[s.sp.toNat - 1], { s with sp := s.sp - 1 }) := by
  unfold pop at h
  split_ifs at h with hsp hlt
  cases h
  exact ⟨hlt, Nat.pos_of_ne_zero fun h₀ => hsp (BitVec.eq_of_toNat_eq h₀), rfl⟩

theorem push_onlyChanges {a : Word} (h : push a s = .ok u) (hsp : P .sp)
    (hk : ∀ k, P (.stack k)) : onlyChanges P s u := by
  obtain ⟨_, rfl⟩ := push_ok h
  intro p hp; cases p with
  | sp => exact absurd hsp hp
  | stack k => exact absurd (hk k) hp
  | _ => rfl

theorem pop_onlyChanges {p : Word × State} (h : pop s = .ok p) (hsp : P .sp) :
    onlyChanges P s p.2 := by
  obtain ⟨_, -, rfl⟩ := pop_ok h
  intro p hp; cases p with
  | sp => exact absurd hsp hp
  | _ => rfl

/-! #### From the parts back to the fields they are parts of -/

theorem stack_eq_of_parts (h : ∀ k, (Part.stack k).same s t) : t.stack = s.stack :=
  Vector.ext fun k hk => h ⟨k, hk⟩

theorem keys_eq_of_parts (h : ∀ k, (Part.key k).same s t) : t.keys = s.keys := by
  refine Vector.ext fun n hn => ?_
  simpa [Part.same, State.key, Nat.mod_eq_of_lt hn] using h (BitVec.ofNat 4 n)

theorem fb_eq_of_parts (h : ∀ y x, (Part.pixel y x).same s t) : t.fb = s.fb :=
  Vector.ext fun y hy => Vector.ext fun x hx => h ⟨y, hy⟩ ⟨x, hx⟩

end Sys2Proof.Machine
end

/-! ### What a next state of `exec` can be: the completed instruction, or its error -/

section
namespace Sys2Proof.Machine

variable {s t : State} {i : Instr}

/-- The instruction completes in `t`: its one checked operation, if it has one, succeeds and its
writes follow. The arms without a checked operation complete always, so there it is `exec` itself. -/
def completes (s t : State) : Instr → Prop
  | .ret => ∃ p, pop s = .ok p ∧ t = p.2.setPc p.1
  | .call nnn => ∃ u, push (s.pc + 2) s = .ok u ∧ t = u.setPc (zextAddr nnn)
  | .drw x y n => ∃ rows, loadBytes s.i.toNat n.toNat s = .ok rows ∧
      ∃ k, k = drawRows (s.reg x).toNat (s.reg y).toNat 0 rows (s.fb, false) ∧
        t = (((s.setFb k.1).setFlag k.2).setDisplayUpdated true).advance
  | .skp x => ∃ k, nibbleOperand x s = .ok k ∧ t = s.skipIf (s.key k)
  | .sknp x => ∃ k, nibbleOperand x s = .ok k ∧ t = s.skipIf (!s.key k)
  | .ldFVx x => ∃ d, nibbleOperand x s = .ok d ∧ t = (s.setI (glyphAddress s.cfg d)).advance
  | .ldBVx x => ∃ u, storeBytes s.i.toNat (bcdDigits (s.reg x)) s = .ok u ∧ t = u.advance
  | .ldMemVx x => ∃ u, storeBytes s.i.toNat (s.regsUpTo x) s = .ok u ∧ t = (u.bumpIndex x).advance
  | .ldVxMem x => ∃ bs, loadBytes s.i.toNat (x.toNat + 1) s = .ok bs ∧
      t = ((s.setRegs bs).bumpIndex x).advance
  | i => exec i s = .next t

/-- An error of R240 that an instruction can raise, with an address exactly when it is
`AddressOutOfBounds` (R247); `RomTooLarge` is `init`'s alone (R246). -/
def validError (kind : ErrorKind) (addr : Option Nat) : Prop :=
  (addr.isSome = true ↔ kind = .addressOutOfBounds) ∧ kind ≠ .romTooLarge

/-- `t` is `s` halted on an error of the instruction, nothing else changed (R96, R97). -/
def entersError (i : Instr) (s t : State) : Prop :=
  ∃ kind addr, validError kind addr ∧
    t = s.halt { kind := kind, pc := s.pc, word := some (encode i), addr := addr }

/-- Whatever error the operation raises is a valid one. -/
def raisesValid {α : Type} (m : Except Stop α) : Prop :=
  ∀ kind addr, m = .error (.raise kind addr) → validError kind addr

theorem loadBytes_raisesValid (a n : Nat) (s : State) : raisesValid (loadBytes a n s) := by
  intro kind addr h
  rcases loadBytes_spec a n s with ⟨-, he⟩ | ⟨-, he⟩ <;> rw [he] at h <;> cases h
  simp [validError]

theorem storeBytes_raisesValid (a : Nat) (bs : List Byte) (s : State) :
    raisesValid (storeBytes a bs s) := by
  intro kind addr h
  rcases storeBytes_spec a bs s with ⟨-, he⟩ | ⟨-, he⟩ <;> rw [he] at h <;> cases h
  simp [validError]

theorem nibbleOperand_raisesValid (x : Nibble) (s : State) : raisesValid (nibbleOperand x s) := by
  intro kind addr h
  rcases nibbleOperand_spec x s with ⟨-, he⟩ | ⟨-, he⟩ <;> rw [he] at h <;> cases h
  simp [validError]

theorem push_raisesValid (a : Word) (s : State) : raisesValid (push a s) := by
  intro kind addr h
  unfold push at h
  split_ifs at h <;> cases h
  simp [validError]

theorem pop_raisesValid (s : State) : raisesValid (pop s) := by
  intro kind addr h
  unfold pop at h
  split_ifs at h <;> cases h
  simp [validError]

/-- A cycle whose body is one checked operation followed by pure writes ends in those writes, or in
the error that the operation raised. -/
theorem commit_bind_cases {α : Type} {m : Except Stop α} (hm : raisesValid m) {k : α → State}
    (h : commit i s (m >>= fun a => pure (k a)) = .next t) :
    (∃ a, m = .ok a ∧ t = k a) ∨ entersError i s t := by
  match m, hm with
  | .ok a, _ => exact .inl ⟨a, rfl, (Host.Outcome.next.inj h).symm⟩
  | .error (.raise kind addr), hm =>
    exact .inr ⟨kind, addr, hm kind addr rfl, (Host.Outcome.next.inj h).symm⟩
  | .error (.fault f), _ => cases h

/-- Every next state of `exec` is the completed instruction's or that of its error. -/
theorem exec_cases (h : exec i s = .next t) : completes s t i ∨ entersError i s t := by
  cases i with
  | ret => exact commit_bind_cases (pop_raisesValid s) (k := fun p => p.2.setPc p.1) h
  | call nnn => exact commit_bind_cases (push_raisesValid _ s) h
  | drw x y n =>
    refine (commit_bind_cases (loadBytes_raisesValid _ _ s) h).imp_left ?_
    rintro ⟨rows, hrows, ht⟩
    exact ⟨rows, hrows, _, rfl, ht⟩
  | skp x => exact commit_bind_cases (nibbleOperand_raisesValid x s) h
  | sknp x => exact commit_bind_cases (nibbleOperand_raisesValid x s) h
  | ldFVx x => exact commit_bind_cases (nibbleOperand_raisesValid x s) h
  | ldBVx x => exact commit_bind_cases (storeBytes_raisesValid _ _ s) h
  | ldMemVx x => exact commit_bind_cases (storeBytes_raisesValid _ _ s) h
  | ldVxMem x => exact commit_bind_cases (loadBytes_raisesValid _ _ s) h
  | _ => exact .inl h

/-! #### The parts an instruction may write -/

/-- The parts that a completed instruction may write, other than by its error (R95, R140-R152,
R170-R175, R191, R192, R211-R217). -/
def mayWrite (i : Instr) (p : Part) : Prop :=
  match i with
  | .cls => (∃ y x, p = .pixel y x) ∨ p = .displayUpdated ∨ p = .pc
  | .ret => p = .sp ∨ p = .pc
  | .call _ => (∃ k, p = .stack k) ∨ p = .sp ∨ p = .pc
  | .jp _ | .jpV0 _ | .seImm _ _ | .sneImm _ _ | .seReg _ _ | .sneReg _ _ | .skp _ | .sknp _ =>
    p = .pc
  | .ldImm x _ | .addImm x _ | .ldReg x _ | .orReg x _ | .andReg x _ | .xorReg x _ | .ldVxDt x =>
    p = .reg x ∨ p = .pc
  | .addReg x _ | .subReg x _ | .shr x _ | .subn x _ | .shl x _ =>
    p = .reg x ∨ p = .reg vf ∨ p = .pc
  | .rnd x _ => p = .reg x ∨ p = .draws ∨ p = .pc
  | .drw _ _ _ => (∃ y x, p = .pixel y x) ∨ p = .reg vf ∨ p = .displayUpdated ∨ p = .pc
  | .ldI _ | .addIVx _ | .ldFVx _ => p = .i ∨ p = .pc
  | .ldVxK _ => p = .wait
  | .ldDtVx _ => p = .dt ∨ p = .pc
  | .ldStVx _ => p = .st ∨ p = .pc
  | .ldBVx _ => (∃ a, p = .byte a) ∨ p = .pc
  | .ldMemVx _ => (∃ a, p = .byte a) ∨ p = .i ∨ p = .pc
  | .ldVxMem x => (∃ k : Nibble, k.toNat ≤ x.toNat ∧ p = .reg k) ∨ p = .i ∨ p = .pc

theorem onlyChanges_storeBytes {P : Part → Prop} {a : Nat} {bs : List Byte} {u : State}
    (h : storeBytes a bs s = .ok u) (hP : ∀ a, P (.byte a)) : onlyChanges P s u := by
  rw [storeBytes_ok h]
  exact onlyChanges.refl.writeBytes fun _ _ => hP _

/-- A completed instruction changes no other part. -/
theorem completes_frame (h : completes s t i) : onlyChanges (mayWrite i) s t := by
  have h₀ : onlyChanges (mayWrite i) s s := .refl
  cases i with
  | cls =>
    obtain rfl := Host.Outcome.next.inj h
    exact ((h₀.setFb (fun y x => .inl ⟨y, x, rfl⟩) _).setDisplayUpdated (.inr (.inl rfl)) _).advance
      (.inr (.inr rfl))
  | ret =>
    obtain ⟨p, hp, rfl⟩ := h
    exact (pop_onlyChanges hp (.inl rfl)).setPc (.inr rfl) _
  | call nnn =>
    obtain ⟨u, hu, rfl⟩ := h
    exact (push_onlyChanges hu (.inr (.inl rfl)) fun k => .inl ⟨k, rfl⟩).setPc
      (.inr (.inr rfl)) _
  | skp x | sknp x =>
    obtain ⟨k, -, rfl⟩ := h
    exact h₀.skipIf rfl _
  | seImm x nn | sneImm x nn | seReg x y | sneReg x y =>
    obtain rfl := Host.Outcome.next.inj h
    exact h₀.skipIf rfl _
  | jp nnn | jpV0 nnn =>
    obtain rfl := Host.Outcome.next.inj h
    exact h₀.setPc rfl _
  | ldImm x nn | addImm x nn | ldReg x y | orReg x y | andReg x y | xorReg x y | ldVxDt x =>
    obtain rfl := Host.Outcome.next.inj h
    exact h₀.result (.inl rfl) (.inr rfl) _
  | addReg x y | subReg x y | shr x y | subn x y | shl x y =>
    obtain rfl := Host.Outcome.next.inj h
    exact h₀.resultFlag (.inl rfl) (.inr (.inl rfl)) (.inr (.inr rfl)) _ _
  | rnd x nn =>
    obtain rfl := Host.Outcome.next.inj h
    exact (h₀.result (.inl rfl) (.inr (.inr rfl)) _).countDraw (.inr (.inl rfl))
  | drw x y n =>
    obtain ⟨_, -, k, -, rfl⟩ := h
    exact (((h₀.setFb (fun y x => .inl ⟨y, x, rfl⟩) _).setFlag (.inr (.inl rfl)) _).setDisplayUpdated
      (.inr (.inr (.inl rfl))) _).advance (.inr (.inr (.inr rfl)))
  | ldI nnn | addIVx x =>
    obtain rfl := Host.Outcome.next.inj h
    exact (h₀.setI (.inl rfl) _).advance (.inr rfl)
  | ldFVx x =>
    obtain ⟨d, -, rfl⟩ := h
    exact (h₀.setI (.inl rfl) _).advance (.inr rfl)
  | ldVxK x =>
    obtain rfl := Host.Outcome.next.inj h
    exact h₀.setWait rfl _
  | ldDtVx x =>
    obtain rfl := Host.Outcome.next.inj h
    exact (h₀.setDt (.inl rfl) _).advance (.inr rfl)
  | ldStVx x =>
    obtain rfl := Host.Outcome.next.inj h
    exact (h₀.setSt (.inl rfl) _).advance (.inr rfl)
  | ldBVx x =>
    obtain ⟨u, hu, rfl⟩ := h
    exact (onlyChanges_storeBytes hu fun a => .inl ⟨a, rfl⟩).advance (.inr rfl)
  | ldMemVx x =>
    obtain ⟨u, hu, rfl⟩ := h
    exact ((onlyChanges_storeBytes hu fun a => .inl ⟨a, rfl⟩).bumpIndex
      (fun _ => .inr (.inl rfl)) x).advance (.inr (.inr rfl))
  | ldVxMem x =>
    obtain ⟨bs, hbs, rfl⟩ := h
    have hlen : bs.length = x.toNat + 1 := by rw [loadBytes_ok hbs, State.length_bytesAt]
    have hregs : onlyChanges (mayWrite (.ldVxMem x)) s (s.setRegs bs) :=
      h₀.setRegs fun k hk => .inl ⟨k, by omega, rfl⟩
    exact (hregs.bumpIndex (fun _ => .inr (.inl rfl)) x).advance (.inr (.inr rfl))

/-- An instruction changes the parts it may write and, by an error, `status` (R96). -/
theorem exec_frame (h : exec i s = .next t) :
    onlyChanges (fun p => p = .status ∨ mayWrite i p) s t := by
  rcases exec_cases h with hc | ⟨kind, addr, -, rfl⟩
  · exact (completes_frame hc).mono fun _ => .inr
  · exact onlyChanges.refl.halt (.inl rfl) _

end Sys2Proof.Machine
end

/-! ### Who writes which part (O52, O54, O55, O57, O58)

The columns of `mayWrite`: for one part, the instructions that may write it. -/

section
namespace Sys2Proof.Machine

variable (i : Instr)

@[simp] theorem not_mayWrite_status : ¬ mayWrite i .status := by cases i <;> simp [mayWrite]
@[simp] theorem not_mayWrite_cfg : ¬ mayWrite i .cfg := by cases i <;> simp [mayWrite]
@[simp] theorem not_mayWrite_key (k : Nibble) : ¬ mayWrite i (.key k) := by
  cases i <;> simp [mayWrite]
@[simp] theorem not_mayWrite_driver : ¬ mayWrite i .driver := by cases i <;> simp [mayWrite]
@[simp] theorem mayWrite_stack (k : Fin 16) : mayWrite i (.stack k) ↔ ∃ nnn, i = .call nnn := by
  cases i <;> simp [mayWrite]
@[simp] theorem mayWrite_sp : mayWrite i .sp ↔ i = .ret ∨ ∃ nnn, i = .call nnn := by
  cases i <;> simp [mayWrite]
@[simp] theorem mayWrite_wait : mayWrite i .wait ↔ ∃ x, i = .ldVxK x := by
  cases i <;> simp [mayWrite]
@[simp] theorem mayWrite_pixel (y : Fin 32) (x : Fin 64) :
    mayWrite i (.pixel y x) ↔ i = .cls ∨ ∃ x y n, i = .drw x y n := by
  cases i <;> simp [mayWrite]
@[simp] theorem mayWrite_displayUpdated :
    mayWrite i .displayUpdated ↔ i = .cls ∨ ∃ x y n, i = .drw x y n := by
  cases i <;> simp [mayWrite]

/-- Settles O54: the columns of `SP` and of the stack entries, read off the frame of `exec`. -/
theorem onlyCallAndReturnTouchTheStack : Obligations.OnlyCallAndReturnTouchTheStack := by
  intro i s t h hcall
  have hframe := exec_frame h
  exact ⟨stack_eq_of_parts fun k => hframe (.stack k) (by simp [hcall]),
    fun hret => hframe .sp (by simp [hcall, hret])⟩

/-- Settles O55: the columns of the pixels and of `display_updated`. -/
theorem onlyDisplayInstructionsTouchTheDisplay :
    Obligations.OnlyDisplayInstructionsTouchTheDisplay := by
  intro i s t h hcls hdrw
  have hframe := exec_frame h
  exact ⟨fb_eq_of_parts fun y x => hframe (.pixel y x) (by simp [hcls, hdrw]),
    hframe .displayUpdated (by simp [hcls, hdrw])⟩

/-- Settles O57: the column of the wait state. -/
theorem onlyKeyWaitInstructionWaits : Obligations.OnlyKeyWaitInstructionWaits := by
  intro i s t h hwait
  exact exec_frame h .wait (by simp [hwait])

/-- The column of VF: the flag writers of R35, and an instruction whose destination is VF. -/
theorem mayWrite_vf (h : mayWrite i (.reg 0xF)) :
    (∃ x y, i = .addReg x y ∨ i = .subReg x y ∨ i = .subn x y ∨ i = .shr x y ∨ i = .shl x y) ∨
    (∃ x y n, i = .drw x y n) ∨
    (∃ nn, i = .ldImm 0xF nn ∨ i = .addImm 0xF nn ∨ i = .rnd 0xF nn) ∨
    (∃ y, i = .ldReg 0xF y ∨ i = .orReg 0xF y ∨ i = .andReg 0xF y ∨ i = .xorReg 0xF y) ∨
    i = .ldVxDt 0xF ∨ i = .ldVxMem 0xF := by
  cases i with
  | addReg x y | subReg x y | shr x y | subn x y | shl x y | drw x y n => simp
  | ldImm x nn | addImm x nn | rnd x nn | ldReg x y | orReg x y | andReg x y | xorReg x y
  | ldVxDt x =>
    obtain rfl : 0xF = x := by simpa [mayWrite] using h
    simp
  | ldVxMem x =>
    have hx : x = 0xF := by
      have hle : (0xF : Nibble).toNat ≤ x.toNat := by simpa [mayWrite] using h
      exact BitVec.eq_of_toNat_eq (le_antisymm (Nat.le_of_lt_succ x.isLt) hle)
    simp [hx]
  | _ => simp [mayWrite] at h

/-- Settles O58: VF changes only where the frame of `exec` allows it, which is its column. -/
theorem flagWritersAreTheListedOnes : Obligations.FlagWritersAreTheListedOnes := by
  intro i s t h hne
  have hmay : mayWrite i (.reg 0xF) := by
    by_contra hnot
    exact hne (exec_frame h (.reg 0xF) (by simpa using hnot))
  exact mayWrite_vf i hmay

/-! #### No step writes the configuration or the keys (O52) -/

theorem keyWaitStep_frame {P : Part → Prop} {x : Nibble} (hx : P (.reg x)) (hpc : P .pc)
    (hw : P .wait) (s : State) : onlyChanges P s (keyWaitStep x s) := by
  rcases keyWaitStep_cases x s with ⟨k, -, he⟩ | ⟨-, he⟩ <;> rw [he]
  · exact ((onlyChanges.refl.setReg hx _).advance hpc).setWait hw _
  · exact .refl

/-- A part that a cycle may write: not the configuration, a key or the driver's position
(R33, R41, R253). -/
def cycleMayWrite (p : Part) : Prop := p ≠ .cfg ∧ p ≠ .driver ∧ ∀ k, p ≠ .key k

theorem cycleMayWrite_of_mayWrite {p : Part} (h : mayWrite i p) : cycleMayWrite p :=
  ⟨by rintro rfl; simp at h, by rintro rfl; simp at h, by rintro k rfl; simp at h⟩

/-- The frame of a step of an active core, from the state in which its cycle begins. -/
theorem step_frame {s t : State} (ha : s.isActive) (h : step s = .next t) :
    onlyChanges cycleMayWrite s.cycleStart t := by
  have hstatus : cycleMayWrite .status := by simp [cycleMayWrite]
  rcases step_cases s with ⟨e, he, -⟩ | ⟨x, -, -, hx⟩ | ⟨-, -, hx⟩ | ⟨w, -, -, -, hx⟩ |
    ⟨w, ins, -, -, -, hx⟩
  · rw [ha] at he; cases he
  · obtain rfl := Host.Outcome.next.inj (hx.symm.trans h)
    exact keyWaitStep_frame (by simp [cycleMayWrite]) (by simp [cycleMayWrite])
      (by simp [cycleMayWrite]) _
  · obtain rfl := Host.Outcome.next.inj (hx.symm.trans h)
    exact onlyChanges.refl.halt hstatus _
  · obtain rfl := Host.Outcome.next.inj (hx.symm.trans h)
    exact onlyChanges.refl.halt hstatus _
  · refine (exec_frame (hx.symm.trans h)).mono fun p hp => ?_
    rcases hp with rfl | hp
    · exact hstatus
    · exact cycleMayWrite_of_mayWrite ins hp

/-- Settles O52: a halted core stays as it is, and the cycle of an active one writes neither. -/
theorem stepNeverWritesConfigOrKeys : Obligations.StepNeverWritesConfigOrKeys := by
  intro s t h
  cases hs : s.status with
  | halted e =>
    obtain rfl := Host.Outcome.next.inj ((step_halted hs).symm.trans h)
    exact ⟨rfl, rfl⟩
  | active =>
    have hframe := step_frame hs h
    exact ⟨hframe .cfg (by simp [cycleMayWrite]),
      keys_eq_of_parts (s := s.cycleStart) fun k => hframe (.key k) (by simp [cycleMayWrite])⟩

end Sys2Proof.Machine
end

/-! ### `display_updated` after a cycle (O56) -/

section
namespace Sys2Proof.Machine

variable {s t : State} {i : Instr}

theorem cpuCycle_awaiting {x : Nibble} (ha : s.isActive) (hw : s.wait = .awaitingKey x) :
    cpuCycle s = .next (keyWaitStep x (s.setDisplayUpdated false)) := by
  simp [cpuCycle, ha, hw]

theorem cpuCycle_running (ha : s.isActive) (hw : s.wait = .running) :
    cpuCycle s = fetchExecute (s.setDisplayUpdated false) := by
  simp [cpuCycle, ha, hw]

theorem fetchesInstr_iff : s.fetchesInstr i ↔ ∃ w, fetchWord s = some w ∧ decode w = some i := by
  rcases fetchWord_spec s with ⟨hpc, hf⟩ | ⟨hpc, hf⟩
  · simp [State.fetchesInstr, hf, hpc]
  · simp [State.fetchesInstr, hf, show ¬ s.pc.toNat ≤ 0xFFE by omega]

theorem completes_status (h : completes s t i) : t.status = s.status :=
  completes_frame h .status (by simp)

/-- A completed instruction sets `display_updated` exactly when it is a clear or a draw (R40). -/
theorem completes_displayUpdated (h : completes s t i) (hd : s.displayUpdated = false) :
    t.displayUpdated = true ↔ i = .cls ∨ ∃ x y n, i = .drw x y n := by
  by_cases hi : i = .cls ∨ ∃ x y n, i = .drw x y n
  · refine iff_of_true ?_ hi
    rcases hi with rfl | ⟨x, y, n, rfl⟩
    · obtain rfl := Host.Outcome.next.inj h
      rfl
    · obtain ⟨_, -, k, -, rfl⟩ := h
      rfl
  · have hkept : t.displayUpdated = s.displayUpdated :=
      completes_frame h .displayUpdated (by rwa [mayWrite_displayUpdated])
    simp [hkept, hd, hi]

/-- The flag after a fetch and execution begun with the flag down: up exactly when the core is still
active and the decoded instruction is a clear or a draw (R40, R249). -/
theorem fetchExecute_displayUpdated (ha : s.isActive) (hd : s.displayUpdated = false)
    (h : fetchExecute s = .next t) :
    t.displayUpdated = true ↔
      t.isActive ∧ ∃ i, s.fetchesInstr i ∧ (i = .cls ∨ ∃ x y n, i = .drw x y n) := by
  rcases fetchExecute_cases s with ⟨-, he⟩ | ⟨w, -, -, he⟩ | ⟨w, ins, hf, hdec, he⟩
  · obtain rfl := Host.Outcome.next.inj (he.symm.trans h)
    simp [hd]
  · obtain rfl := Host.Outcome.next.inj (he.symm.trans h)
    simp [hd]
  · rcases exec_cases (he.symm.trans h) with hc | ⟨kind, addr, -, rfl⟩
    · have hta : t.status = .active := (completes_status hc).trans ha
      rw [completes_displayUpdated hc hd]
      simp [State.isActive, hta, fetchesInstr_iff, hf, hdec]
    · simp [hd]

/-- Settles O56: a waiting cycle leaves the flag down; the others fetch. -/
theorem displayUpdatedTellsADraw : Obligations.DisplayUpdatedTellsADraw := by
  intro s t ha h
  cases hw : s.wait with
  | awaitingKey x =>
    obtain rfl := Host.Outcome.next.inj ((cpuCycle_awaiting ha hw).symm.trans h)
    have hdown : (keyWaitStep x (s.setDisplayUpdated false)).displayUpdated = false :=
      keyWaitStep_frame (P := fun p => p ≠ .displayUpdated) (by simp) (by simp) (by simp) _
        .displayUpdated (by simp)
    simp [hdown, hw]
  | running =>
    have hstart := fetchExecute_displayUpdated (s := s.setDisplayUpdated false) ha rfl
      ((cpuCycle_running ha hw).symm.trans h)
    exact hstart.trans (and_congr_right fun _ => (and_iff_right ⟨ha, hw⟩).symm)

end Sys2Proof.Machine
end

/-! ### The invariant: construction, and every step (O46-O49, O51) -/

section
namespace Sys2Proof.Machine

variable {s t : State} {i : Instr}

/-! #### What a completed instruction does to memory, the stack, the wait state and `PC` -/

theorem completes_cfg (h : completes s t i) : t.cfg = s.cfg :=
  completes_frame h .cfg (by simp)

/-- Only the two stores change memory, as a list and not just byte by byte (R58, R66; log 8). -/
theorem completes_mem (h : completes s t i) (hbcd : ∀ x, i ≠ .ldBVx x)
    (hregs : ∀ x, i ≠ .ldMemVx x) : t.mem = s.mem := by
  cases i with
  | ldBVx x => exact absurd rfl (hbcd x)
  | ldMemVx x => exact absurd rfl (hregs x)
  | ret =>
    obtain ⟨p, hp, rfl⟩ := h
    obtain ⟨_, -, rfl⟩ := pop_ok hp
    rfl
  | call nnn =>
    obtain ⟨u, hu, rfl⟩ := h
    obtain ⟨_, rfl⟩ := push_ok hu
    rfl
  | drw x y n => obtain ⟨_, -, _, -, rfl⟩ := h; rfl
  | skp x | sknp x | ldFVx x => obtain ⟨_, -, rfl⟩ := h; rfl
  | ldVxMem x => obtain ⟨_, -, rfl⟩ := h; simp
  | _ => obtain rfl := Host.Outcome.next.inj h; rfl

theorem completes_memWf (h : completes s t i) (hm : Memory.wf s.cfg s.mem) :
    Memory.wf t.cfg t.mem := by
  cases i with
  | ldBVx x => obtain ⟨u, hu, rfl⟩ := h; exact storeBytes_wf (t := u) hm hu
  | ldMemVx x => obtain ⟨u, hu, rfl⟩ := h; simpa using storeBytes_wf hm hu
  | _ => rw [completes_cfg h, completes_mem h nofun nofun]; exact hm

theorem advance_pc_le (h : s.pc.toNat ≤ 0xFFE) : s.advance.pc.toNat ≤ 0x1000 := by
  simp [BitVec.toNat_add]; omega

/-- `SP` counts at most 16 entries, each live one a return address of at most 0x1000 (R25, R114). -/
def State.stackLegal (s : State) : Prop :=
  s.sp.toNat ≤ 16 ∧ ∀ k : Fin 16, k.val < s.sp.toNat → s.stack[k.val].toNat ≤ 0x1000

/-- The stack stays legal: `pop` uncovers live entries only, `push` adds `pc0 + 2` (R110, R111). -/
theorem completes_stackLegal (h : completes s t i) (hpc : s.pc.toNat ≤ 0xFFE)
    (hs : s.stackLegal) : t.stackLegal := by
  obtain ⟨hsp, hlive⟩ := hs
  cases i with
  | ret =>
    obtain ⟨p, hp, rfl⟩ := h
    obtain ⟨_, hpos, rfl⟩ := pop_ok hp
    have hdec : (s.sp - 1).toNat ≤ s.sp.toNat := by simp [BitVec.toNat_sub]; omega
    exact ⟨hdec.trans hsp, fun k hk => hlive k (hk.trans_le hdec)⟩
  | call nnn =>
    obtain ⟨u, hu, rfl⟩ := h
    obtain ⟨hlt, rfl⟩ := push_ok hu
    have hinc : (s.sp + 1).toNat = s.sp.toNat + 1 := by simp [BitVec.toNat_add]; omega
    have hpush : (s.pc + 2).toNat ≤ 0x1000 := advance_pc_le hpc
    refine ⟨hinc.trans_le hlt, fun k hk => ?_⟩
    have hk' : k.val < s.sp.toNat + 1 := hinc ▸ hk
    show (s.stack.set s.sp.toNat (s.pc + 2))[k.val].toNat ≤ 0x1000
    rw [Vector.getElem_set]
    split_ifs with heq
    · exact hpush
    · exact hlive k (by omega)
  | _ =>
    have hstack : t.stack = s.stack :=
      stack_eq_of_parts fun k => completes_frame h (.stack k) (by simp)
    have hkept : t.sp = s.sp := completes_frame h .sp (by simp)
    unfold State.stackLegal
    rw [hstack, hkept]
    exact ⟨hsp, hlive⟩

theorem toNat_zextAddr (nnn : Addr12) : (zextAddr nnn).toNat = nnn.toNat := by
  simp [zextAddr]; omega

theorem toNat_zextByte (b : Byte) : (zextByte b).toNat = b.toNat := by
  simp [zextByte]; omega

theorem skipIf_pc_le (h : s.pc.toNat ≤ 0xFFE) (c : Bool) : (s.skipIf c).pc.toNat ≤ 0x1002 := by
  cases c <;> simp [BitVec.toNat_add] <;> omega

/-- The greatest `PC` is that of `BNNN`: 0xFFF + 0xFF (R24, R95, R119). -/
theorem completes_pc_le (h : completes s t i) (hpc : s.pc.toNat ≤ 0xFFE) (hs : s.stackLegal) :
    t.pc.toNat ≤ 0x10FE := by
  cases i with
  | jp nnn =>
    obtain rfl := Host.Outcome.next.inj h
    have := nnn.isLt
    rw [State.setPc_pc, toNat_zextAddr]; omega
  | jpV0 nnn =>
    obtain rfl := Host.Outcome.next.inj h
    have := nnn.isLt
    have := (s.reg 0).isLt
    rw [State.setPc_pc, BitVec.toNat_add, toNat_zextAddr, toNat_zextByte]; omega
  | call nnn =>
    obtain ⟨u, -, rfl⟩ := h
    have := nnn.isLt
    rw [State.setPc_pc, toNat_zextAddr]; omega
  | ret =>
    obtain ⟨p, hp, rfl⟩ := h
    obtain ⟨hlt, hpos, rfl⟩ := pop_ok hp
    exact (hs.2 ⟨_, hlt⟩ (Nat.sub_lt hpos one_pos)).trans (by decide)
  | skp x | sknp x =>
    obtain ⟨k, -, rfl⟩ := h
    exact (skipIf_pc_le hpc _).trans (by decide)
  | seImm x nn | sneImm x nn | seReg x y | sneReg x y =>
    obtain rfl := Host.Outcome.next.inj h
    exact (skipIf_pc_le hpc _).trans (by decide)
  | ldVxK x =>
    obtain rfl := Host.Outcome.next.inj h
    exact hpc.trans (by decide)
  | drw x y n =>
    obtain ⟨_, -, _, -, rfl⟩ := h
    exact (advance_pc_le (s := s) hpc).trans (by decide)
  | ldFVx x =>
    obtain ⟨_, -, rfl⟩ := h
    exact (advance_pc_le (s := s) hpc).trans (by decide)
  | ldBVx x =>
    obtain ⟨u, hu, rfl⟩ := h
    rw [storeBytes_ok hu]
    exact (advance_pc_le (s := s) hpc).trans (by decide)
  | ldMemVx x =>
    obtain ⟨u, hu, rfl⟩ := h
    rw [storeBytes_ok hu]
    exact (advance_pc_le (by simpa using hpc)).trans (by decide)
  | ldVxMem x =>
    obtain ⟨_, -, rfl⟩ := h
    exact (advance_pc_le (by simpa using hpc)).trans (by decide)
  | _ =>
    obtain rfl := Host.Outcome.next.inj h
    exact (advance_pc_le (s := s) hpc).trans (by decide)

/-- Only `FX0A` begins a wait, for its own register and with `PC` still at its word (R211). -/
theorem completes_waits {x : Nibble} (h : completes s t i) (hw : s.wait = .running)
    (ht : t.wait = .awaitingKey x) : i = .ldVxK x ∧ fetchWord t = fetchWord s := by
  by_cases hi : ∃ y, i = .ldVxK y
  · obtain ⟨y, rfl⟩ := hi
    obtain rfl := Host.Outcome.next.inj h
    cases ht
    exact ⟨rfl, rfl⟩
  · have hkept : t.wait = s.wait := completes_frame h .wait (by rwa [mayWrite_wait])
    rw [hkept, hw] at ht
    cases ht

/-! #### The part of the invariant that every event keeps -/

/-- `State.Inv` without its clause on the schedule, which only the driver's own order of events
keeps (R253, R279). -/
structure State.CoreInv (s : State) : Prop where
  memWf : Memory.wf s.cfg s.mem
  stackLegal : s.stackLegal
  pcReachable : s.pc.toNat ≤ 0x10FE
  waitsAtInstr : ∀ x, s.wait = .awaitingKey x → fetchWord s = some (encode (.ldVxK x))
  recordPrecise : ∀ e, s.status = .halted e →
    e.pc = s.pc ∧ e.word = fetchWord s ∧ (e.addr.isSome = true ↔ e.kind = .addressOutOfBounds) ∧
      e.kind ≠ .romTooLarge ∧ s.wait = .running ∧ s.displayUpdated = false

theorem State.inv_iff : s.Inv ↔
    s.CoreInv ∧ s.driver.timerTicks = ticksBeforeCpuTick s.cfg.cpuHz s.driver.cpuTicks :=
  ⟨fun h => ⟨⟨h.memWf, ⟨h.spLegal, h.returnReachable⟩, h.pcReachable, h.waitsAtInstr,
      h.recordPrecise⟩, h.onSchedule⟩,
    fun ⟨h, hsched⟩ => ⟨h.memWf, h.stackLegal.1, h.pcReachable, h.stackLegal.2, h.waitsAtInstr,
      hsched, h.recordPrecise⟩⟩

theorem State.CoreInv.elapse (h : s.CoreInv) (n : Nat) : (s.elapse n).CoreInv :=
  ⟨h.memWf, h.stackLegal, h.pcReachable, h.waitsAtInstr, h.recordPrecise⟩

theorem State.CoreInv.countCpuTick (h : s.CoreInv) : s.countCpuTick.CoreInv :=
  ⟨h.memWf, h.stackLegal, h.pcReachable, h.waitsAtInstr, h.recordPrecise⟩

theorem State.CoreInv.keySet (h : s.CoreInv) (k : Nibble) (p : Bool) :
    (keySet k p s).CoreInv :=
  ⟨h.memWf, h.stackLegal, h.pcReachable, h.waitsAtInstr, h.recordPrecise⟩

theorem State.CoreInv.clearDisplayUpdated (h : s.CoreInv) :
    (s.setDisplayUpdated false).CoreInv where
  memWf := h.memWf
  stackLegal := h.stackLegal
  pcReachable := h.pcReachable
  waitsAtInstr := h.waitsAtInstr
  recordPrecise e he := by
    obtain ⟨hpc, hword, haddr, hkind, hw, -⟩ := h.recordPrecise e he
    exact ⟨hpc, hword, haddr, hkind, hw, rfl⟩

/-- Error entry with `pc0` and the word there keeps it (R247). -/
theorem State.CoreInv.halt (h : s.CoreInv) (hw : s.wait = .running)
    (hd : s.displayUpdated = false) {kind : ErrorKind} {word : Option Word} {addr : Option Nat}
    (hword : word = fetchWord s) (hv : validError kind addr) :
    (s.halt { kind := kind, pc := s.pc, word := word, addr := addr }).CoreInv where
  memWf := h.memWf
  stackLegal := h.stackLegal
  pcReachable := h.pcReachable
  waitsAtInstr := h.waitsAtInstr
  recordPrecise e he := by
    cases he
    exact ⟨rfl, hword, hv.1, hv.2, hw, hd⟩

theorem pc_le_of_fetchWord {w : Word} (h : fetchWord s = some w) : s.pc.toNat ≤ 0xFFE := by
  rcases fetchWord_spec s with ⟨hpc, -⟩ | ⟨-, hf⟩
  · exact hpc
  · rw [hf] at h; cases h

theorem completes_keeps_core (h : s.CoreInv) (ha : s.isActive) (hw : s.wait = .running)
    (hf : fetchWord s = some (encode i)) (hc : completes s t i) : t.CoreInv where
  memWf := completes_memWf hc h.memWf
  stackLegal := completes_stackLegal hc (pc_le_of_fetchWord hf) h.stackLegal
  pcReachable := completes_pc_le hc (pc_le_of_fetchWord hf) h.stackLegal
  waitsAtInstr x hx := by
    obtain ⟨rfl, hkept⟩ := completes_waits hc hw hx
    exact hkept.trans hf
  recordPrecise e he := by
    rw [completes_status hc, ha] at he
    cases he

theorem fetchExecute_keeps_core (h : s.CoreInv) (ha : s.isActive) (hw : s.wait = .running)
    (hd : s.displayUpdated = false) (ht : fetchExecute s = .next t) : t.CoreInv := by
  rcases fetchExecute_cases s with ⟨hf, he⟩ | ⟨w, hf, -, he⟩ | ⟨w, ins, hf, hdec, he⟩
  · obtain rfl := Host.Outcome.next.inj (he.symm.trans ht)
    exact h.halt hw hd hf.symm (by simp [validError])
  · obtain rfl := Host.Outcome.next.inj (he.symm.trans ht)
    exact h.halt hw hd hf.symm (by simp [validError])
  · obtain rfl := encode_of_decode hdec
    rcases exec_cases (he.symm.trans ht) with hc | ⟨kind, addr, hv, rfl⟩
    · exact completes_keeps_core h ha hw hf hc
    · exact h.halt hw hd hf.symm hv

theorem keyWaitStep_keeps_core {x : Nibble} (h : s.CoreInv) (ha : s.isActive)
    (hw : s.wait = .awaitingKey x) : (keyWaitStep x s).CoreInv := by
  have hpc := pc_le_of_fetchWord (h.waitsAtInstr x hw)
  rcases keyWaitStep_cases x s with ⟨k, -, he⟩ | ⟨-, he⟩ <;> rw [he]
  · exact ⟨h.memWf, h.stackLegal, (advance_pc_le hpc).trans (by decide), nofun,
      fun e he => by cases ha.symm.trans he⟩
  · exact h

theorem cpuCycle_keeps_core (h : s.CoreInv) (ha : s.isActive) (ht : cpuCycle s = .next t) :
    t.CoreInv := by
  cases hw : s.wait with
  | awaitingKey x =>
    obtain rfl := Host.Outcome.next.inj ((cpuCycle_awaiting ha hw).symm.trans ht)
    exact keyWaitStep_keeps_core h.clearDisplayUpdated ha hw
  | running =>
    exact fetchExecute_keeps_core h.clearDisplayUpdated ha hw rfl
      ((cpuCycle_running ha hw).symm.trans ht)

theorem cpuTick_active (ha : s.isActive) : cpuTick s = cpuCycle s.countCpuTick := by
  simp [cpuTick, ha]

theorem cpuTick_halted {e : ErrorRecord} (h : s.status = .halted e) : cpuTick s = .next s := by
  simp [cpuTick, h]

theorem cpuTick_keeps_core (h : s.CoreInv) (ht : cpuTick s = .next t) : t.CoreInv := by
  cases hs : s.status with
  | halted e =>
    obtain rfl := Host.Outcome.next.inj ((cpuTick_halted hs).symm.trans ht)
    exact h
  | active =>
    exact cpuCycle_keeps_core h.countCpuTick hs ((cpuTick_active hs).symm.trans ht)

/-! #### Every step -/

theorem step_active (ha : s.isActive) : step s = cpuTick s.deliverDueTicks := by
  simp [step, driverStep, ha]

theorem ticksBeforeCpuTick_mono (hz : Nat) : Monotone (ticksBeforeCpuTick hz) :=
  fun _ _ h => Nat.div_le_div_right (Nat.sub_le_sub_right (Nat.mul_le_mul_left 60 h) 1)

/-- Settles O49: the core's part is kept by the timer ticks delivered and by the CPU tick after
them; the schedule is kept because the step delivers exactly the ticks that are due. -/
theorem stepKeepsTheInvariant : Obligations.StepKeepsTheInvariant := by
  intro s t hinv ht
  obtain ⟨hcore, hsched⟩ := State.inv_iff.1 hinv
  cases hs : s.status with
  | halted e =>
    obtain rfl := Host.Outcome.next.inj ((step_halted hs).symm.trans ht)
    exact hinv
  | active =>
    have hframe := step_frame hs ht
    have hcfg : t.cfg = s.cfg := hframe .cfg (by simp [cycleMayWrite])
    have hdriver : t.driver = s.cycleStart.driver := hframe .driver (by simp [cycleMayWrite])
    refine State.inv_iff.2
      ⟨cpuTick_keeps_core (hcore.elapse s.dueTicks) ((step_active hs).symm.trans ht), ?_⟩
    have hmono := ticksBeforeCpuTick_mono s.cfg.cpuHz (Nat.le_succ s.driver.cpuTicks)
    rw [hcfg, hdriver, State.cycleStart_driver]
    simp only [State.dueTicks, hsched]
    exact Nat.add_sub_cancel' hmono

/-! #### Every event -/

theorem timerTick_keeps_core (h : s.CoreInv) : (timerTick s).CoreInv := by
  cases hs : s.status with
  | halted e => simpa [timerTick, hs] using h
  | active => rw [timerTick_active hs]; exact h.elapse 1

theorem applyEvent_keeps_core {e : Event} (h : s.CoreInv) (ht : applyEvent s e = .next t) :
    t.CoreInv := by
  cases e with
  | cpuTick => exact cpuTick_keeps_core h ht
  | timerTick =>
    obtain rfl := Host.Outcome.next.inj ht
    exact timerTick_keeps_core h
  | keySet k p =>
    obtain rfl := Host.Outcome.next.inj ht
    exact h.keySet k p

theorem runEvents_keeps_core {es : List Event} (h : s.CoreInv)
    (ht : runEvents es s = .next t) : t.CoreInv := by
  induction es generalizing s with
  | nil =>
    obtain rfl := Host.Outcome.next.inj ht
    exact h
  | cons e es ih =>
    unfold runEvents at ht
    split at ht
    · next u hu => exact ih (applyEvent_keeps_core h hu) ht
    · cases ht
    · cases ht

/-- Settles O51: every event keeps the core's part of the invariant, whatever the order. -/
theorem anyEventOrderKeepsTheCoreLegal : Obligations.AnyEventOrderKeepsTheCoreLegal := by
  intro es s t hinv ht
  have hcore := runEvents_keeps_core (State.inv_iff.1 hinv).1 ht
  exact ⟨hcore.memWf, hcore.stackLegal.1, hcore.pcReachable⟩

/-! #### Construction -/

theorem init_ok {rom : List Byte} {cfg : Config} (h : rom.length ≤ 3584) :
    init rom cfg = .ok ({ State.reset with cfg := cfg }.writeBytes 0x200 rom) := by
  have hfits : romFits rom = true := decide_eq_true h
  rw [init, if_pos hfits]

theorem init_error {rom : List Byte} {cfg : Config} (h : 3584 < rom.length) :
    init rom cfg = .error .romTooLarge := by
  have hlong : ¬ romFits rom = true := mt of_decide_eq_true (not_le.2 h)
  rw [init, if_neg hlong]

/-- Settles O48: memory is the ROM written over canonical (empty) memory, `SP` is 0, the core is
active and running, and no CPU tick is due before the first. -/
theorem initMeetsTheInvariant : Obligations.InitMeetsTheInvariant := by
  intro rom cfg s h
  by_cases hlen : rom.length ≤ 3584
  · obtain rfl := Except.ok.inj ((init_ok hlen).symm.trans h)
    have hwf : Memory.wf cfg [] := ⟨.nil, nofun⟩
    exact {
      memWf := Memory.wf_writeAll rom hwf (by omega)
      spLegal := Nat.zero_le 16
      pcReachable := show 0x200 ≤ 0x10FE by decide
      returnReachable := fun _ hk => absurd hk (Nat.not_lt_zero _)
      waitsAtInstr := nofun
      onSchedule := (Nat.zero_div cfg.cpuHz).symm
      recordPrecise := nofun }
  · rw [init_error (not_le.1 hlen)] at h
    cases h

/-- Settles O47: reset is `init` with an empty ROM. -/
theorem resetMeetsTheInvariant : Obligations.ResetMeetsTheInvariant :=
  initMeetsTheInvariant [] Config.atReset State.reset init_empty_rom

theorem reset_reg (x : Nibble) : State.reset.reg x = 0 := Vector.getElem_replicate _

theorem reset_stack (k : Fin 16) : State.reset.stack[k.val] = 0 := Vector.getElem_replicate _

theorem reset_pixel (y : Fin 32) (x : Fin 64) : State.reset.pixel y x = false := by
  simp [State.pixel, State.reset]

theorem reset_key (k : Nibble) : State.reset.key k = false := Vector.getElem_replicate _

/-- What an unwritten address reads as inside the font, which ends below 0x200 (R34, R51). -/
theorem unlisted_font {cfg : Config} (hfont : cfg.fontBase.toNat + 80 ≤ 0x200) (k : Fin 80) :
    Memory.unlisted cfg (cfg.fontBase.toNat + k.val) = cfg.fontData[k.val] := by
  have hk := k.isLt
  simp [Memory.unlisted, hk, show ¬ 0x200 ≤ cfg.fontBase.toNat + k.val by omega]

/-- What an unwritten address reads as outside the font (R37). -/
theorem unlisted_outside {cfg : Config} {a : Nat}
    (ha : a < cfg.fontBase.toNat ∨ cfg.fontBase.toNat + 80 ≤ a) : Memory.unlisted cfg a = 0 := by
  unfold Memory.unlisted
  split_ifs with h₁ h₂ h₃
  · rfl
  · rfl
  · omega
  · rfl

/-- Settles O46: the ROM is written at 0x200, above the font; every other field is that of reset. -/
theorem initConstructsTheState : Obligations.InitConstructsTheState := by
  intro rom cfg hwf
  have hfont : cfg.fontBase.toNat + 80 ≤ 0x200 := by
    simp only [Config.wf, Config.fontOk, Bool.and_eq_true, decide_eq_true_eq] at hwf
    exact hwf.2
  refine ⟨init_error, fun hlen => ⟨_, init_ok hlen, ?_, ?_, ?_, ?_⟩⟩
  · intro k
    have hk := k.isLt
    rw [State.byteAt_writeBytes, dif_neg (by omega)]
    exact unlisted_font hfont k
  · intro k hk
    rw [State.byteAt_writeBytes, dif_pos (by omega)]
    simp
  · intro a hout hrom
    rw [State.byteAt_writeBytes, dif_neg (by omega)]
    exact unlisted_outside hout
  · exact ⟨reset_reg, rfl, rfl, rfl, reset_stack, rfl, rfl, reset_pixel, reset_key, rfl, rfl, rfl, rfl⟩

end Sys2Proof.Machine
end

/-! ### Memory: stores and loads in bounds, who writes it, the fetch (O7, O37, O53) -/

section
namespace Sys2Proof.Machine

variable {s : State} {x k : Nibble}

theorem storeBytes_inBounds {a : Nat} {bs : List Byte} (h : a + bs.length ≤ 0x1000) :
    storeBytes a bs s = .ok (s.writeBytes a bs) :=
  if_pos ((spanOk_iff _ _).2 (.inr h))

theorem loadBytes_inBounds {a n : Nat} (h : a + n ≤ 0x1000) :
    loadBytes a n s = .ok (s.bytesAt a n) :=
  if_pos ((spanOk_iff _ _).2 (.inr h))

/-- `FX55` in bounds (R174). -/
theorem exec_ldMemVx_inBounds (h : s.i.toNat + x.toNat ≤ 0xFFF) :
    exec (.ldMemVx x) s =
      .next ((s.writeBytes s.i.toNat (s.regsUpTo x)).bumpIndex x).advance := by
  have hlen : s.i.toNat + (s.regsUpTo x).length ≤ 0x1000 := by
    rw [State.length_regsUpTo]; omega
  show execLdMemVx x s = _
  rw [execLdMemVx, storeBytes_inBounds hlen]
  rfl

/-- `FX65` in bounds (R175). -/
theorem exec_ldVxMem_inBounds (h : s.i.toNat + x.toNat ≤ 0xFFF) :
    exec (.ldVxMem x) s =
      .next ((s.setRegs (s.bytesAt s.i.toNat (x.toNat + 1))).bumpIndex x).advance := by
  show execLdVxMem x s = _
  rw [execLdVxMem, loadBytes_inBounds (by omega)]
  rfl

/-- The byte `V[k]` of a store of `V[0]` to `V[X]` at `a` lies at `a + k` (R174). -/
theorem State.byteAt_writeBytes_regsUpTo (s : State) (a : Nat) (hk : k.toNat ≤ x.toNat) :
    (s.writeBytes a (s.regsUpTo x)).byteAt (a + k.toNat) = s.reg k := by
  have hin : a ≤ a + k.toNat ∧ a + k.toNat - a < (s.regsUpTo x).length := by
    rw [State.length_regsUpTo]; omega
  rw [State.byteAt_writeBytes, dif_pos hin, State.getElem_regsUpTo]
  simp

/-- A load of `V[0]` to `V[X]` from `a` takes `V[k]` from `a + k` (R175). -/
theorem State.reg_setRegs_bytesAt (s : State) (a : Nat) (hk : k.toNat ≤ x.toNat) :
    (s.setRegs (s.bytesAt a (x.toNat + 1))).reg k = s.byteAt (a + k.toNat) := by
  have hlt : k.toNat < (s.bytesAt a (x.toNat + 1)).length := by
    rw [State.length_bytesAt]; omega
  rw [State.reg_setRegs, List.getD_eq_getElem _ _ hlt, State.getElem_bytesAt]

/-- Settles O37: the load takes `V[k]` from `I + k`, where the store left the old `V[k]`; a byte
depends on memory and the configuration alone (R62). -/
theorem storedRegistersLoadBack : Obligations.StoredRegistersLoadBack := by
  intro x s t u hspan hstore hmem hcfg hi
  obtain rfl := Host.Outcome.next.inj ((exec_ldMemVx_inBounds hspan).symm.trans hstore)
  refine ⟨_, exec_ldVxMem_inBounds (hi ▸ hspan), fun k hk => ?_⟩
  calc (((u.setRegs (u.bytesAt u.i.toNat (x.toNat + 1))).bumpIndex x).advance).reg k
      = u.byteAt (u.i.toNat + k.toNat) := by
        rw [State.advance_reg, State.bumpIndex_reg, State.reg_setRegs_bytesAt u _ hk]
    _ = (s.writeBytes s.i.toNat (s.regsUpTo x)).byteAt (s.i.toNat + k.toNat) := by
        rw [hi, State.byteAt_congr hmem hcfg, State.advance_byteAt, State.bumpIndex_byteAt]
    _ = s.reg k := s.byteAt_writeBytes_regsUpTo _ hk

/-- Settles O53: an instruction that completes leaves memory unless it is a store, and one that
raises an error changes `status` alone. -/
theorem onlyStoresWriteMemory : Obligations.OnlyStoresWriteMemory := by
  intro i s t hbcd hregs h
  rcases exec_cases h with hc | ⟨kind, addr, -, rfl⟩
  · exact completes_mem hc hbcd hregs
  · rfl

/-- Settles O7: the two cases of the fetch, with the value of the joined word (R56). -/
theorem fetchIsBigEndianWithinMemory : Obligations.FetchIsBigEndianWithinMemory := by
  intro s
  rcases fetchWord_spec s with ⟨hin, hf⟩ | ⟨hout, hf⟩
  · exact ⟨fun hout => absurd hin (by omega), fun _ => ⟨_, hf, toNat_joinBytes _ _⟩⟩
  · exact ⟨fun _ => hf, fun hin => absurd hin (by omega)⟩

end Sys2Proof.Machine
end

/-! ### Encoding: the two round trips and the opcode map (R71, R73-R77) -/

section
namespace Sys2Proof

variable {w m p : Word} {r : OpcodeRow}

/-- The `8` family is decoded on `N` (R74). -/
theorem decode_formatRR_alu (x y n : Nibble) : decode (formatRR 0x8 x y n) = decodeAlu x y n := by
  simp [decode, fields_formatRR]

/-- The `E` family is decoded on `NN` (R74). -/
theorem decode_formatRI_key (x : Nibble) (nn : Byte) :
    decode (formatRI 0xE x nn) = decodeKey x nn := by
  simp [decode, fields_formatRI]

/-- The `F` family is decoded on `NN` (R74). -/
theorem decode_formatRI_misc (x : Nibble) (nn : Byte) :
    decode (formatRI 0xF x nn) = decodeMisc x nn := by
  simp [decode, fields_formatRI]

/-- An instruction's word is decoded by its leading nibble, and the fields of its format are the
operands. In the families `8`, `E` and `F` the last field then picks the instruction (R73, R74). -/
theorem decode_encode (i : Instr) : decode (encode i) = some i := by
  cases i with
  | cls | ret => rfl
  | jp nnn | call nnn | ldI nnn | jpV0 nnn => simp [encode, decode, fields_formatA]
  | seImm x nn | sneImm x nn | ldImm x nn | addImm x nn | rnd x nn =>
    simp [encode, decode, fields_formatRI]
  | seReg x y | sneReg x y | drw x y n => simp [encode, decode, fields_formatRR]
  | ldReg x y | orReg x y | andReg x y | xorReg x y | addReg x y | subReg x y | shr x y | subn x y
  | shl x y => exact decode_formatRR_alu x y _
  | skp x | sknp x => exact decode_formatRI_key x _
  | ldVxDt x | ldVxK x | ldDtVx x | ldStVx x | addIVx x | ldFVx x | ldBVx x | ldMemVx x
  | ldVxMem x => exact decode_formatRI_misc x _

/-- Settles O1: each word is decoded by the fields of its format. -/
theorem decodeOfEncodeIsSelf : Obligations.DecodeOfEncodeIsSelf :=
  decode_encode

/-- Settles O2: the fields that the decoder reads make up the whole word. -/
theorem encodeOfDecodeIsSelf : Obligations.EncodeOfDecodeIsSelf :=
  fun _ _ => encode_of_decode

/-- An instruction's word matches the instruction's row, one format of R73 at a time (R75). -/
theorem rowOf_covers_encode (i : Instr) : (rowOf i).covers (encode i) = true := by
  cases i with
  | cls | ret => rfl
  | jp nnn | call nnn | ldI nnn | jpV0 nnn => exact Laws.formatA_covers _ nnn
  | seImm x nn | sneImm x nn | ldImm x nn | addImm x nn | rnd x nn =>
    exact Laws.formatRI_covers _ x nn
  | seReg x y | sneReg x y | ldReg x y | orReg x y | andReg x y | xorReg x y | addReg x y
  | subReg x y | shr x y | subn x y | shl x y => exact Laws.formatRR_covers _ x y _
  | drw x y n => exact Laws.formatD_covers _ x y n
  | skp x | sknp x | ldVxDt x | ldVxK x | ldDtVx x | ldStVx x | addIVx x | ldFVx x | ldBVx x
  | ldMemVx x | ldVxMem x => exact Laws.formatRS_covers _ x _

/-- A mask of ones on a field leaves the field as it is. -/
theorem extractLsb'_of_masked {lo len : Nat} (h : w &&& m = p)
    (hm : m.extractLsb' lo len = BitVec.allOnes len) :
    w.extractLsb' lo len = p.extractLsb' lo len := by
  rw [← h, BitVec.extractLsb'_and, hm, BitVec.and_allOnes]

theorem opField_of_masked (h : w &&& m = p) (hm : opField m = 0xF#4) : opField w = opField p :=
  extractLsb'_of_masked h hm

theorem nField_of_masked (h : w &&& m = p) (hm : nField m = 0xF#4) : nField w = nField p :=
  extractLsb'_of_masked h hm

theorem nnField_of_masked (h : w &&& m = p) (hm : nnField m = 0xFF#8) : nnField w = nnField p :=
  extractLsb'_of_masked h hm

/-- A word that matches an instruction's row is decoded to an instruction of that row: the decoder
tells instructions apart by the fields that the row fixes. The arms are the masks of R75. -/
theorem rowOf_decode_of_masked (i : Instr) (h : w &&& (rowOf i).mask = (rowOf i).pattern) :
    (decode w).map rowOf = some (rowOf i) := by
  cases i with
  | cls | ret =>
    obtain rfl : w = _ := BitVec.and_allOnes.symm.trans h
    rfl
  | jp | call | ldI | jpV0 | seImm | sneImm | ldImm | addImm | rnd | drw =>
    simp only [rowOf] at h
    rw [decode, opField_of_masked h rfl]
    rfl
  | seReg | sneReg | ldReg | orReg | andReg | xorReg | addReg | subReg | shr | subn | shl =>
    simp only [rowOf] at h
    rw [decode, opField_of_masked h rfl, nField_of_masked h rfl]
    rfl
  | skp | sknp | ldVxDt | ldVxK | ldDtVx | ldStVx | addIVx | ldFVx | ldBVx | ldMemVx | ldVxMem =>
    simp only [rowOf] at h
    rw [decode, opField_of_masked h rfl, nnField_of_masked h rfl]
    rfl

/-- The pattern of a row of the opcode map is decoded to an instruction of that row. -/
theorem rowOf_decode_pattern : ∀ r ∈ opcodeMap, (decode r.pattern).map rowOf = some r := by
  decide

/-- A word that matches a row of the opcode map is decoded to an instruction of that row (R75). -/
theorem rowOf_decode_of_mem (hr : r ∈ opcodeMap) (h : w &&& r.mask = r.pattern) :
    (decode w).map rowOf = some r := by
  obtain ⟨i, -, rfl⟩ := Option.map_eq_some_iff.1 (rowOf_decode_pattern r hr)
  exact rowOf_decode_of_masked i h

/-- Settles O3: an instruction's word matches its own row, and a word that matches a row is decoded
to an instruction of it. -/
theorem decodeAcceptsExactlyTheOpcodeMap : Obligations.DecodeAcceptsExactlyTheOpcodeMap := by
  intro w
  constructor
  · intro h
    obtain ⟨i, hi⟩ := Option.isSome_iff_exists.1 h
    obtain rfl := encode_of_decode hi
    exact ⟨rowOf i, rowOf_mem i, beq_iff_eq.1 (rowOf_covers_encode i)⟩
  · rintro ⟨r, hr, h⟩
    rw [← Option.isSome_map, rowOf_decode_of_mem hr h, Option.isSome_some]

/-- Settles O4: a row that a word matches is the row of the one instruction it is decoded to. -/
theorem opcodeMapRowsAreDisjoint : Obligations.OpcodeMapRowsAreDisjoint :=
  fun _ _ _ hr hr' h h' =>
    Option.some.inj ((rowOf_decode_of_mem hr h).symm.trans (rowOf_decode_of_mem hr' h'))

/-- Settles O5: the decoder run on the 22 words of the spec's table. -/
theorem specDecodeVectors : Obligations.SpecDecodeVectors := by
  unfold Obligations.SpecDecodeVectors
  decide

end Sys2Proof
end

/-! ### The dispatch cycle: its three ends, errors, the next `PC`, the step (O6, O8, O11, O12, O59) -/

section
namespace Sys2Proof.Machine

variable {s t : State} {i : Instr} {w : Word}

/-! #### The three ends of a fetch and execution (R249) -/

theorem fetchExecute_unfetched (hf : fetchWord s = none) : fetchExecute s = .next (s.halt
    { kind := .addressOutOfBounds, pc := s.pc, word := none, addr := some s.pc.toNat }) := by
  simp [fetchExecute, hf]

theorem fetchExecute_undecoded (hf : fetchWord s = some w) (hd : decode w = none) :
    fetchExecute s = .next (s.halt
      { kind := .unknownOpcode, pc := s.pc, word := some w, addr := none }) := by
  simp [fetchExecute, hf, hd]

theorem fetchExecute_decoded (hf : fetchWord s = some w) (hd : decode w = some i) :
    fetchExecute s = exec i s := by
  simp [fetchExecute, hf, hd]

/-- Settles O6: the cycle lowers `display_updated`, which the fetch does not read, and the fetch and
the decoding of the word then pick one of the three ends. -/
theorem cycleFetchesDecodesExecutes : Obligations.CycleFetchesDecodesExecutes := by
  intro s ⟨ha, hw⟩
  have hkept : fetchWord (s.setDisplayUpdated false) = fetchWord s := fetchWord_congr rfl rfl rfl
  rw [cpuCycle_running ha hw]
  rcases fetchWord_spec s with ⟨hin, hf⟩ | ⟨hout, hf⟩
  · refine ⟨fun hout => absurd hin (by omega), ?_⟩
    rintro w - rfl
    exact ⟨fetchExecute_undecoded (hkept.trans hf), fun _ => fetchExecute_decoded (hkept.trans hf)⟩
  · exact ⟨fun _ => fetchExecute_unfetched (hkept.trans hf), fun _ hin => absurd hin (by omega)⟩

/-! #### A next state of `exec` by its status: halted by an error, or completed -/

theorem entersError_of_halted {e : ErrorRecord} (ha : s.isActive) (h : exec i s = .next t)
    (ht : t.status = .halted e) : entersError i s t :=
  (exec_cases h).resolve_left fun hc => by cases ha.symm.trans ((completes_status hc).symm.trans ht)

theorem completes_of_active (h : exec i s = .next t) (ht : t.isActive) : completes s t i :=
  (exec_cases h).resolve_right fun ⟨_, _, _, he⟩ => by rw [he] at ht; cases ht

/-- Settles O12: the halted state is the error entry's, whose record is the instruction's. -/
theorem errorChangesOnlyStatus : Obligations.ErrorChangesOnlyStatus := by
  intro i s t e ha h ht
  obtain ⟨kind, addr, hvalid, rfl⟩ := entersError_of_halted ha h ht
  cases ht
  exact ⟨rfl, rfl, rfl, hvalid.1⟩

/-! #### The next `PC` (R95) -/

/-- The sum of `BNNN` is below 2^16, hence exact (R119). -/
theorem toNat_zextAddr_add_zextByte (nnn : Addr12) (b : Byte) :
    (zextAddr nnn + zextByte b).toNat = nnn.toNat + b.toNat := by
  have := nnn.isLt
  have := b.isLt
  rw [BitVec.toNat_add, toNat_zextAddr, toNat_zextByte]
  omega

theorem skipIf_pc_cases (s : State) (c : Bool) :
    (s.skipIf c).pc = s.pc + 4 ∨ (s.skipIf c).pc = s.pc + 2 := by
  cases c
  · exact .inr rfl
  · exact .inl rfl

/-- Settles O59: the completed instruction's last update of `PC`, class by class. -/
theorem nextPcByClass : Obligations.NextPcByClass := by
  intro i s t _ h ht
  have hc := completes_of_active h ht
  cases i with
  | jp nnn =>
    obtain rfl := Host.Outcome.next.inj hc
    exact toNat_zextAddr nnn
  | call nnn =>
    obtain ⟨u, -, rfl⟩ := hc
    exact toNat_zextAddr nnn
  | jpV0 nnn =>
    obtain rfl := Host.Outcome.next.inj hc
    exact toNat_zextAddr_add_zextByte nnn _
  | ret =>
    obtain ⟨p, hp, rfl⟩ := hc
    obtain ⟨hlt, hpos, rfl⟩ := pop_ok hp
    exact ⟨⟨_, hlt⟩, Nat.sub_add_cancel hpos, rfl⟩
  | skp x | sknp x =>
    obtain ⟨k, -, rfl⟩ := hc
    exact skipIf_pc_cases s _
  | seImm x nn | sneImm x nn | seReg x y | sneReg x y =>
    obtain rfl := Host.Outcome.next.inj hc
    exact skipIf_pc_cases s _
  | drw x y n =>
    obtain ⟨_, -, _, -, rfl⟩ := hc
    rfl
  | ldBVx x | ldMemVx x =>
    obtain ⟨u, hu, rfl⟩ := hc
    simp [storeBytes_ok hu]
  | ldFVx x | ldVxMem x =>
    obtain ⟨_, -, rfl⟩ := hc
    simp
  | _ =>
    obtain rfl := Host.Outcome.next.inj hc
    rfl

/-! #### The step (R90, R91, R248, R253; log 5) -/

/-- Before its cycle a step changes the timers, the driver's counts and `display_updated` alone. -/
theorem State.cycleStart_frame (s : State) :
    onlyChanges (fun p => p = .dt ∨ p = .st ∨ p = .driver ∨ p = .displayUpdated) s s.cycleStart := by
  intro p hp
  cases p with
  | dt | st | driver | displayUpdated => simp at hp
  | _ => rfl

/-- Settles O8: the cycle begins in `cycleStart`, which holds the same word at `PC`. -/
theorem stepRunsTheDecodedInstruction : Obligations.StepRunsTheDecodedInstruction := by
  intro s i ⟨ha, hw⟩ hi
  obtain ⟨w, hf, hd⟩ := fetchesInstr_iff.1 hi
  have hkept : fetchWord s.cycleStart = fetchWord s := fetchWord_congr rfl rfl rfl
  have hstep : step s = exec i s.cycleStart :=
    (step_running ha hw).trans (fetchExecute_decoded (hkept.trans hf) hd)
  exact ⟨s.cycleStart, hstep, toNat_countDown _ _, toNat_countDown _ _, rfl, rfl, rfl,
    s.cycleStart_frame⟩

theorem timerTick_halted {e : ErrorRecord} (h : s.status = .halted e) : timerTick s = s := by
  simp [timerTick, h]

theorem cpuCycle_halted {e : ErrorRecord} (h : s.status = .halted e) : cpuCycle s = .next s := by
  simp [cpuCycle, h]

/-- Settles O11: each of the four looks at the status first. -/
theorem haltedIsPermanent : Obligations.HaltedIsPermanent :=
  fun _ _ h => ⟨cpuTick_halted h, congrArg Host.Outcome.next (timerTick_halted h),
    cpuCycle_halted h, step_halted h⟩

end Sys2Proof.Machine
end

/-! ### Control flow: the return, the jumps, the call and the skips (O15-O21) -/

section
namespace Sys2Proof.Machine

variable {P Q : Part → Prop} {s t u : State} {i : Instr}

/-! #### Frames one after the other -/

theorem onlyChanges.trans (h : onlyChanges P s t) (h' : onlyChanges P t u) : onlyChanges P s u := by
  intro p hp
  have hst := h p hp
  have htu := h' p hp
  cases p <;> exact htu.trans hst

/-- A part that ends as it began need not be named. -/
theorem onlyChanges.restored {q : Part} (h : onlyChanges (fun p => p = q ∨ P p) s t)
    (hq : q.same s t) : onlyChanges P s t := by
  intro p hp
  by_cases hpq : p = q
  · exact hpq ▸ hq
  · exact h p (not_or.2 ⟨hpq, hp⟩)

/-! #### The end of a cycle by the answer of its one checked operation (R96, R97) -/

theorem commit_bind_ok {α : Type} {m : Except Stop α} {a : α} (hm : m = .ok a) (k : α → State) :
    commit i s (m >>= fun a => pure (k a)) = .next (k a) := by
  rw [hm]; rfl

theorem commit_bind_raise {α : Type} {m : Except Stop α} {kind : ErrorKind} {addr : Option Nat}
    (hm : m = .error (.raise kind addr)) (k : α → State) :
    commit i s (m >>= fun a => pure (k a)) = .next (s.haltedBy kind i addr) := by
  rw [hm]; rfl

/-! #### The stack operations with `SP` in range, and at its two ends (R110, R111) -/

theorem push_room (a : Word) (h : s.sp.toNat < 16) : ∃ u, push a s = .ok u ∧
    u.stack[s.sp.toNat] = a ∧ u.sp.toNat = s.sp.toNat + 1 := by
  rcases push_spec a s h.le with ⟨_, hu⟩ | ⟨hfull, -⟩
  · refine ⟨_, hu, Vector.getElem_set_self h, ?_⟩
    show (s.sp + 1).toNat = _
    simp [BitVec.toNat_add]; omega
  · simp [hfull] at h

theorem push_full (a : Word) (h : s.sp = 16) : push a s = .error (.raise .stackOverflow none) :=
  if_pos h

theorem pop_entry (h : 0 < s.sp.toNat ∧ s.sp.toNat ≤ 16) : ∃ u,
    pop s = .ok (s.stack[s.sp.toNat - 1], u) ∧ u.sp.toNat = s.sp.toNat - 1 := by
  obtain ⟨hpos, hle⟩ := h
  rcases pop_spec s hle with ⟨_, -, hu⟩ | ⟨hempty, -⟩
  · refine ⟨_, hu, ?_⟩
    show (s.sp - 1).toNat = _
    simp [BitVec.toNat_sub]; omega
  · simp [hempty] at hpos

theorem pop_empty (h : s.sp = 0) : pop s = .error (.raise .stackUnderflow none) :=
  if_pos h

/-- `push` writes one entry, the one at `SP` (R110). -/
theorem push_frame {a : Word} (h : push a s = .ok u) (hsp : P .sp)
    (hk : ∀ hlt : s.sp.toNat < 16, P (.stack ⟨s.sp.toNat, hlt⟩)) : onlyChanges P s u := by
  obtain ⟨hlt, rfl⟩ := push_ok h
  intro p hp; cases p with
  | sp => exact absurd hsp hp
  | stack k =>
    have hne : s.sp.toNat ≠ k.val := fun he => hp ((Fin.ext he : ⟨_, hlt⟩ = k) ▸ hk hlt)
    exact Vector.getElem_set_ne hlt k.isLt hne
  | _ => rfl

/-! #### Return and call, and one after the other -/

/-- Settles O15: `pop` answers the top entry, or raises the error on the empty stack. -/
theorem returnPopsTheStack : Obligations.ReturnPopsTheStack := by
  refine ⟨rfl, fun s => ⟨fun h => ?_, fun h => ?_⟩⟩
  · obtain ⟨u, hu, hsp⟩ := pop_entry h
    exact ⟨_, commit_bind_ok hu fun p => p.2.setPc p.1, rfl, hsp,
      (pop_onlyChanges hu (.inr rfl)).setPc (.inl rfl) _⟩
  · exact commit_bind_raise (pop_empty h) fun p => p.2.setPc p.1

/-- Settles O17: `push` writes the entry at `SP`, or raises the error on the full stack. -/
theorem callPushesAndJumps : Obligations.CallPushesAndJumps := by
  refine fun nnn s => ⟨rfl, fun h => ?_, fun h => ?_⟩
  · obtain ⟨u, hu, hentry, hsp⟩ := push_room (s.pc + 2) h
    exact ⟨_, commit_bind_ok hu _, hentry, hsp, toNat_zextAddr nnn,
      (push_frame hu (.inr (.inl rfl)) fun _ => .inr (.inr rfl)).setPc (.inl rfl) _⟩
  · exact commit_bind_raise (push_full _ h) _

/-- Settles O18: the return pops the entry that the call pushed, and `SP` is back where it was. -/
theorem callThenReturnComesBack : Obligations.CallThenReturnComesBack := by
  intro nnn s h
  obtain ⟨-, hcall, -⟩ := callPushesAndJumps nnn s
  obtain ⟨t, ht, hentry, htsp, -, hcallFrame⟩ := hcall h
  obtain ⟨hret, -⟩ := returnPopsTheStack.2 t
  obtain ⟨u, hu, hupc, husp, hretFrame⟩ := hret (by omega)
  refine ⟨t, u, ht, hu, ?_, onlyChanges.restored (q := .sp) ?_ ?_⟩
  · simpa [htsp, hentry] using hupc
  · exact (hcallFrame.mono fun _ => or_left_comm.1).trans (hretFrame.mono fun _ hp => hp.symm.imp_right .inl)
  · exact BitVec.eq_of_toNat_eq (by omega)

/-! #### The jumps and the skips -/

theorem State.setPc_frame (s : State) (a : Word) : onlyChanges (fun p => p = .pc) s (s.setPc a) :=
  onlyChanges.setPc (P := (· = .pc)) .refl rfl a

/-- Settles O16: the jump is one write of `PC`. -/
theorem jumpWritesPc : Obligations.JumpWritesPc :=
  fun nnn s => ⟨rfl, _, rfl, toNat_zextAddr nnn, s.setPc_frame _⟩

/-- Settles O21: the sum is below 2^16, so the 16-bit addition is exact. -/
theorem indexedJumpIsExact : Obligations.IndexedJumpIsExact :=
  fun nnn s => ⟨rfl, _, rfl, toNat_zextAddr_add_zextByte nnn _, s.setPc_frame _⟩

/-- A skip on equality (R115, R117). -/
theorem State.skipIf_beq (s : State) (a b : Byte) :
    (s.skipIf (a == b)).pc = (if a = b then s.pc + 4 else s.pc + 2) ∧
      onlyChanges (fun p => p = .pc) s (s.skipIf (a == b)) :=
  ⟨by simp, s.setPc_frame _⟩

/-- A skip on inequality (R116, R118). -/
theorem State.skipIf_bne (s : State) (a b : Byte) :
    (s.skipIf (a != b)).pc = (if a = b then s.pc + 2 else s.pc + 4) ∧
      onlyChanges (fun p => p = .pc) s (s.skipIf (a != b)) := by
  refine ⟨?_, s.setPc_frame _⟩
  by_cases h : a = b
  · simp [h]
  · simp [h]

/-- Settles O19: a skip on equality and one on inequality, of `VX` and `NN`. -/
theorem skipsOnImmediate : Obligations.SkipsOnImmediate :=
  fun _ _ s => ⟨rfl, rfl, ⟨_, rfl, s.skipIf_beq _ _⟩, ⟨_, rfl, s.skipIf_bne _ _⟩⟩

/-- Settles O20: a skip on equality and one on inequality, of `VX` and `VY`. -/
theorem skipsOnRegisters : Obligations.SkipsOnRegisters :=
  fun _ _ s => ⟨rfl, rfl, ⟨_, rfl, s.skipIf_beq _ _⟩, ⟨_, rfl, s.skipIf_bne _ _⟩⟩

end Sys2Proof.Machine
end

/-! ### Arithmetic and logic: loads, sums, differences, shifts, the random byte (O22-O30) -/

section
namespace Sys2Proof.Machine

/-! #### The two ways an instruction of the family ends: a result, or a result and then VF (R140) -/

theorem State.reg_result (s : State) (x : Nibble) (b : Byte) : (s.result x b).reg x = b := by
  simp [State.result]

theorem State.toNat_reg_result (s : State) (x : Nibble) (b : Byte) :
    ((s.result x b).reg x).toNat = b.toNat :=
  congrArg BitVec.toNat (s.reg_result x b)

theorem State.getLsbD_reg_result (s : State) (x : Nibble) (b : Byte) (k : Nat) :
    ((s.result x b).reg x).getLsbD k = b.getLsbD k :=
  congrArg (BitVec.getLsbD · k) (s.reg_result x b)

theorem State.result_frame (s : State) (x : Nibble) (b : Byte) :
    onlyChanges (fun p => p = .reg x ∨ p = .pc) s (s.result x b) :=
  onlyChanges.refl.result (.inl rfl) (.inr rfl) b

/-- The flag is written last, so it is there even when VF is the destination. -/
theorem State.vf_resultFlag (s : State) (x : Nibble) (b : Byte) (c : Bool) :
    (s.resultFlag x b c).reg vf = flagByte c := by
  simp [State.resultFlag]

theorem State.toNat_vf_resultFlag (s : State) (x : Nibble) (b : Byte) (c : Bool) :
    ((s.resultFlag x b c).reg vf).toNat = c.toNat := by
  rw [s.vf_resultFlag]
  cases c <;> rfl

/-- The flag write spares the result unless VF is the destination. -/
theorem State.toNat_reg_resultFlag (s : State) {x : Nibble} (hx : x ≠ vf) (b : Byte) (c : Bool) :
    ((s.resultFlag x b c).reg x).toNat = b.toNat := by
  simp [State.resultFlag, hx]

theorem State.resultFlag_frame (s : State) (x : Nibble) (b : Byte) (c : Bool) :
    onlyChanges (fun p => p = .reg x ∨ p = .reg 0xF ∨ p = .pc) s (s.resultFlag x b c) :=
  onlyChanges.refl.resultFlag (.inl rfl) (.inr (.inl rfl)) (.inr (.inr rfl)) b c

/-! #### The flags and the results as numbers -/

theorem flagByte_decide (p : Prop) [Decidable p] : flagByte (decide p) = if p then 1 else 0 := by
  simp [flagByte]

/-- A difference of bytes, with the 256 borrowed (R148, R150). -/
theorem toNat_sub_byte (a b : Byte) : (a - b).toNat = (a.toNat + 256 - b.toNat) % 256 := by
  have := b.isLt
  rw [BitVec.toNat_sub]
  congr 1
  omega

theorem toNat_shiftedOutRight (b : Byte) : (shiftedOutRight b).toNat = b.toNat % 2 := by
  rw [shiftedOutRight, BitVec.getLsbD, Nat.toNat_testBit]
  simp

theorem toNat_shiftedOutLeft (b : Byte) : (shiftedOutLeft b).toNat = b.toNat / 128 := by
  have hlt : b.toNat / 128 < 2 := Nat.div_lt_of_lt_mul b.isLt
  rw [shiftedOutLeft, BitVec.getLsbD, Nat.toNat_testBit]
  exact Nat.mod_eq_of_lt hlt

/-! #### A result without a flag -/

/-- Settles O22: the result is the immediate. -/
theorem loadImmediate : Obligations.LoadImmediate :=
  fun x nn s => ⟨rfl, _, rfl, s.reg_result x nn, rfl, s.result_frame x nn⟩

/-- Settles O23: the result is the 8-bit sum, which drops the carry. -/
theorem addImmediateWraps : Obligations.AddImmediateWraps :=
  fun x nn s => ⟨rfl, _, rfl, (s.toNat_reg_result x _).trans (BitVec.toNat_add _ nn), rfl,
    s.result_frame x _⟩

/-- Settles O24: four results, each read bit by bit. -/
theorem assignAndLogic : Obligations.AssignAndLogic := by
  refine fun x y s => ⟨rfl, rfl, rfl, rfl, ⟨_, rfl, s.reg_result x _, rfl, s.result_frame x _⟩,
    ⟨_, rfl, fun k _ => ?_, rfl, s.result_frame x _⟩,
    ⟨_, rfl, fun k _ => ?_, rfl, s.result_frame x _⟩,
    ⟨_, rfl, fun k _ => ?_, rfl, s.result_frame x _⟩⟩
  · exact (s.getLsbD_reg_result x _ k).trans BitVec.getLsbD_or
  · exact (s.getLsbD_reg_result x _ k).trans BitVec.getLsbD_and
  · exact (s.getLsbD_reg_result x _ k).trans BitVec.getLsbD_xor

/-- Settles O30: the result is the drawn byte under the mask, and the draw is counted after it. -/
theorem randomByteIsMasked : Obligations.RandomByteIsMasked :=
  fun x _ s => ⟨rfl, _, rfl, fun k _ => (s.getLsbD_reg_result x _ k).trans BitVec.getLsbD_and,
    rfl, rfl, (onlyChanges.refl.result (.inl rfl) (.inr (.inl rfl)) _).countDraw (.inr (.inr rfl))⟩

/-! #### A result and its flag -/

/-- Settles O25: the carry is what the 8-bit sum drops. -/
theorem addSetsCarry : Obligations.AddSetsCarry :=
  fun x _ s => ⟨rfl, _, rfl, (s.vf_resultFlag x _ _).trans (flagByte_decide _),
    fun hx => (s.toNat_reg_resultFlag hx _ _).trans (BitVec.toNat_add _ _), rfl,
    s.resultFlag_frame x _ _⟩

/-- What both subtractions leave, `a` being the minuend (R148, R150). -/
theorem State.resultFlag_sub (s : State) (x : Nibble) (a b : Byte) :
    (s.resultFlag x (a - b) (noBorrow a b)).reg 0xF = (if b.toNat ≤ a.toNat then 1 else 0) ∧
    (x ≠ 0xF → ((s.resultFlag x (a - b) (noBorrow a b)).reg x).toNat =
      (a.toNat + 256 - b.toNat) % 256) ∧
    (s.resultFlag x (a - b) (noBorrow a b)).pc = s.pc + 2 ∧
    onlyChanges (fun p => p = .reg x ∨ p = .reg 0xF ∨ p = .pc) s
      (s.resultFlag x (a - b) (noBorrow a b)) :=
  ⟨(s.vf_resultFlag x _ _).trans (flagByte_decide _),
    fun hx => (s.toNat_reg_resultFlag hx _ _).trans (toNat_sub_byte a b), rfl,
    s.resultFlag_frame x _ _⟩

/-- Settles O26: `VX` is the minuend. -/
theorem subtractSetsNotBorrow : Obligations.SubtractSetsNotBorrow :=
  fun x y s => ⟨rfl, _, rfl, s.resultFlag_sub x (s.reg x) (s.reg y)⟩

/-- Settles O27: `VY` is the minuend. -/
theorem reverseSubtractSetsNotBorrow : Obligations.ReverseSubtractSetsNotBorrow :=
  fun x y s => ⟨rfl, _, rfl, s.resultFlag_sub x (s.reg y) (s.reg x)⟩

/-- Settles O28: the flag is the remainder by 2 and the result the quotient. -/
theorem shiftRight : Obligations.ShiftRight := by
  rintro x y s src (rfl : src = s.shiftSource x y)
  refine ⟨rfl, _, rfl, ?_, fun hx => ?_, rfl, s.resultFlag_frame x _ _⟩
  · exact (s.toNat_vf_resultFlag x _ _).trans (toNat_shiftedOutRight _)
  · exact (s.toNat_reg_resultFlag hx _ _).trans (BitVec.toNat_ushiftRight _ 1)

/-- Settles O29: the flag is what the 8-bit double drops. -/
theorem shiftLeft : Obligations.ShiftLeft := by
  rintro x y s src (rfl : src = s.shiftSource x y)
  refine ⟨rfl, _, rfl, ?_, fun hx => ?_, rfl, s.resultFlag_frame x _ _⟩
  · exact (s.toNat_vf_resultFlag x _ _).trans (toNat_shiftedOutLeft _)
  · rw [s.toNat_reg_resultFlag hx, BitVec.toNat_shiftLeft, Nat.shiftLeft_eq]

end Sys2Proof.Machine
end

/-! ### The index register and memory: `I`, the glyph, the digits, the registers (O31-O36) -/

section
namespace Sys2Proof.Machine

variable {s : State}

/-! #### The writes of `I` -/

theorem State.setI_advance_frame (s : State) (a : Word) :
    onlyChanges (fun p => p = .i ∨ p = .pc) s (s.setI a).advance :=
  (onlyChanges.refl.setI (.inl rfl) a).advance (.inr rfl)

/-- Settles O31: `I` is the zero-extended address. -/
theorem loadIndex : Obligations.LoadIndex :=
  fun nnn s => ⟨rfl, _, rfl, toNat_zextAddr nnn, rfl, s.setI_advance_frame _⟩

theorem toNat_add_zextByte (a : Word) (b : Byte) :
    (a + zextByte b).toNat = (a.toNat + b.toNat) % 65536 := by
  rw [BitVec.toNat_add, toNat_zextByte]

/-- Settles O32: the sum is that of 16 bits. -/
theorem addToIndexWraps : Obligations.AddToIndexWraps :=
  fun x s => ⟨rfl, _, rfl, toNat_add_zextByte s.i (s.reg x), rfl, s.setI_advance_frame _⟩

/-- The font of an admissible configuration lies below 0x200 (R34). -/
theorem fontBase_le_of_wf {cfg : Config} (hcfg : cfg.wf = true) :
    cfg.fontBase.toNat + 80 ≤ 0x200 := by
  simp only [Config.wf, Config.fontOk, Bool.and_eq_true, decide_eq_true_eq] at hcfg
  exact hcfg.2

/-- The address of a glyph that lies below 0x200 does not wrap (R34, R172). -/
theorem toNat_glyphAddress {cfg : Config} (hfont : cfg.fontBase.toNat + 80 ≤ 0x200) (d : Nibble) :
    (glyphAddress cfg d).toNat = cfg.fontBase.toNat + 5 * d.toNat := by
  have hd := d.isLt
  simp [glyphAddress, BitVec.toNat_add, BitVec.toNat_mul]
  omega

theorem nibbleOperand_digit {x : Nibble} (h : (s.reg x).toNat ≤ 0xF) :
    ∃ d, nibbleOperand x s = .ok d ∧ d.toNat = (s.reg x).toNat := by
  rcases nibbleOperand_spec x s with ⟨-, hd⟩ | ⟨hlt, -⟩
  · exact ⟨_, hd, by simp; omega⟩
  · omega

theorem nibbleOperand_outOfRange {x : Nibble} (h : 0xF < (s.reg x).toNat) :
    nibbleOperand x s = .error (.raise .operandOutOfRange none) :=
  if_pos h

/-- Settles O33: `VX` is a digit and `I` its glyph's address, or the operand's check raises the
error. -/
theorem indexPointsAtGlyph : Obligations.IndexPointsAtGlyph := by
  refine fun x s => ⟨rfl, fun hcfg hdigit => ?_, fun hlarge => ?_⟩
  · obtain ⟨d, hd, hval⟩ := nibbleOperand_digit hdigit
    exact ⟨_, commit_bind_ok hd _, hval ▸ toNat_glyphAddress (fontBase_le_of_wf hcfg) d, rfl,
      s.setI_advance_frame _⟩
  · exact commit_bind_raise (nibbleOperand_outOfRange hlarge) _

/-! #### Checked accesses out of bounds (R53, R54, R59) -/

theorem spanOk_outOfBounds {a n : Nat} (hn : n ≠ 0) (h : 0x1000 < a + n) :
    ¬ spanOk a n = true := by
  rw [spanOk_iff]
  omega

theorem storeBytes_outOfBounds {a : Nat} {bs : List Byte} (hbs : bs.length ≠ 0)
    (h : 0x1000 < a + bs.length) :
    storeBytes a bs s = .error (.raise .addressOutOfBounds (some (max a 0x1000))) :=
  if_neg (spanOk_outOfBounds hbs h)

theorem loadBytes_outOfBounds {a n : Nat} (hn : n ≠ 0) (h : 0x1000 < a + n) :
    loadBytes a n s = .error (.raise .addressOutOfBounds (some (max a 0x1000))) :=
  if_neg (spanOk_outOfBounds hn h)

/-! #### The decimal digits -/

theorem State.byteAt_writeBytes_add (s : State) (a : Nat) {bs : List Byte} {k : Nat}
    (hk : k < bs.length) : (s.writeBytes a bs).byteAt (a + k) = bs[k] := by
  have hin : a ≤ a + k ∧ a + k - a < bs.length := by omega
  rw [State.byteAt_writeBytes, dif_pos hin]
  simp

theorem length_bcdDigits (b : Byte) : (bcdDigits b).length = 3 := rfl

/-- Each digit is below 256, so the byte stored at its place has its value (R173). -/
theorem State.toNat_byteAt_writeBytes_bcdDigits (s : State) (a : Nat) (b : Byte) :
    ((s.writeBytes a (bcdDigits b)).byteAt a).toNat = b.toNat / 100 ∧
    ((s.writeBytes a (bcdDigits b)).byteAt (a + 1)).toNat = b.toNat / 10 % 10 ∧
    ((s.writeBytes a (bcdDigits b)).byteAt (a + 2)).toNat = b.toNat % 10 := by
  have hdigit {k n : Nat} (hk : k < 3) (hget : (bcdDigits b)[k] = BitVec.ofNat 8 n)
      (hn : n < 256) : ((s.writeBytes a (bcdDigits b)).byteAt (a + k)).toNat = n := by
    rw [s.byteAt_writeBytes_add a hk, hget, BitVec.toNat_ofNat, Nat.mod_eq_of_lt hn]
  have hb := b.isLt
  exact ⟨hdigit (k := 0) (by decide) rfl (by omega), hdigit (by decide) rfl (by omega),
    hdigit (by decide) rfl (by omega)⟩

/-- The only bytes that the store of the digits may change are the three at `a` (R173). -/
theorem State.writeBytes_bcdDigits_frame (s : State) (a : Nat) (b : Byte) :
    onlyChanges (fun p => p = .byte a ∨ p = .byte (a + 1) ∨ p = .byte (a + 2)) s
      (s.writeBytes a (bcdDigits b)) := by
  refine onlyChanges.refl.writeBytes fun k hk => ?_
  rw [length_bcdDigits] at hk
  interval_cases k <;> simp

/-- Settles O34: the three digits are stored at `I` on, or the store's check raises the error. -/
theorem decimalDigitsStored : Obligations.DecimalDigitsStored := by
  refine fun x s => ⟨rfl, fun hin => ?_, fun hout => ?_⟩
  · have hspan : s.i.toNat + (bcdDigits (s.reg x)).length ≤ 0x1000 := by
      rw [length_bcdDigits]; omega
    obtain ⟨hhundreds, htens, hones⟩ := s.toNat_byteAt_writeBytes_bcdDigits s.i.toNat (s.reg x)
    exact ⟨_, commit_bind_ok (storeBytes_inBounds hspan) _, hhundreds, htens, hones, rfl,
      ((s.writeBytes_bcdDigits_frame _ _).mono fun _ => .inr).advance (.inl rfl)⟩
  · have hlen := length_bcdDigits (s.reg x)
    exact commit_bind_raise (storeBytes_outOfBounds (by omega) (by omega)) _

/-! #### The registers stored and loaded -/

/-- Settles O35: the bytes are stored at `I` on and `I` is bumped, or the store's check raises the
error. -/
theorem registersStored : Obligations.RegistersStored := by
  refine fun x s => ⟨rfl, fun hin => ?_, fun hout => ?_⟩
  · refine ⟨_, exec_ldMemVx_inBounds hin, fun k hk => ?_, State.toNat_bumpIndex _ x hin, ?_, ?_⟩
    · rw [State.advance_byteAt, State.bumpIndex_byteAt, s.byteAt_writeBytes_regsUpTo _ hk]
    · simp
    · refine ((onlyChanges.refl.writeBytes fun k hk => ?_).bumpIndex (fun hq => ?_) x).advance
        (.inl rfl)
      · rw [State.length_regsUpTo] at hk
        exact .inr (.inr ⟨k, by omega, rfl⟩)
      · exact .inr (.inl ⟨rfl, hq⟩)
  · have hlen := s.length_regsUpTo x
    exact commit_bind_raise (storeBytes_outOfBounds (by omega) (by omega)) _

/-- Settles O36: the registers are loaded from `I` on and `I` is bumped, or the load's check raises
the error. -/
theorem registersLoaded : Obligations.RegistersLoaded := by
  refine fun x s => ⟨rfl, fun hin => ?_, fun hout => ?_⟩
  · refine ⟨_, exec_ldVxMem_inBounds hin, fun k hk => ?_, State.toNat_bumpIndex _ x hin, ?_, ?_⟩
    · rw [State.advance_reg, State.bumpIndex_reg, s.reg_setRegs_bytesAt _ hk]
    · simp
    · refine ((onlyChanges.refl.setRegs fun k hk => ?_).bumpIndex (fun hq => ?_) x).advance
        (.inl rfl)
      · rw [State.length_bytesAt] at hk
        exact .inr (.inr ⟨k, by omega, rfl⟩)
      · exact .inr (.inl ⟨rfl, hq⟩)
  · exact commit_bind_raise (loadBytes_outOfBounds (by omega) (by omega)) _

end Sys2Proof.Machine
end

/-! ### The display: the clear and the draw (O38-O41) -/

section
namespace Sys2Proof.Machine

variable {s t : State} {x y n : Nibble}

/-! #### The clear -/

theorem getElem_blankFb (py : Fin 32) (px : Fin 64) : blankFb[py.val][px.val] = false := by
  simp [blankFb]

/-- Settles O38: every pixel of the blank display is off, and the frame grows by the three writes. -/
theorem clearTurnsAllPixelsOff : Obligations.ClearTurnsAllPixelsOff :=
  ⟨rfl, fun _ => ⟨_, rfl, getElem_blankFb, rfl, rfl,
    ((onlyChanges.refl.setFb (fun py px => .inr (.inr ⟨py, px, rfl⟩)) _).setDisplayUpdated
      (.inr (.inl rfl)) _).advance (.inl rfl)⟩⟩

/-! #### The draw in bounds: the state it ends in -/

/-- The display with the sprite of `DXYN` drawn on it, and whether it collided (R192). -/
def State.drawnCanvas (x y n : Nibble) (s : State) : Canvas :=
  drawRows (s.reg x).toNat (s.reg y).toNat 0 (s.bytesAt s.i.toNat n.toNat) (s.fb, false)

/-- The state after a `DXYN` that completes (R192). -/
def State.drawn (x y n : Nibble) (s : State) : State :=
  (((s.setFb (s.drawnCanvas x y n).1).setFlag (s.drawnCanvas x y n).2).setDisplayUpdated
    true).advance

theorem exec_drw_inBounds (h : n = 0 ∨ s.i.toNat + n.toNat - 1 ≤ 0xFFF) :
    exec (.drw x y n) s = .next (s.drawn x y n) := by
  have hspan : spanOk s.i.toNat n.toNat = true := by
    rw [spanOk_iff]
    rcases h with rfl | h
    · exact .inl rfl
    · omega
  exact commit_bind_ok (if_pos hspan) _

/-- The pixels under the rows that `DXYN` loads are those its sprite hits. -/
theorem State.spriteHits_iff (py : Fin 32) (px : Fin 64) : s.spriteHits x y n py px ↔
    ∃ (r : Nat) (h : r < (s.bytesAt s.i.toNat n.toNat).length),
      rowHits (s.reg x).toNat (s.reg y).toNat (0 + r) (s.bytesAt s.i.toNat n.toNat)[r] py px := by
  simp only [State.spriteHits, rowHits, spriteBit, State.getElem_bytesAt, State.length_bytesAt,
    Nat.zero_add]
  constructor
  · rintro ⟨r, c, hr, hc⟩
    exact ⟨r, hr, c, hc⟩
  · rintro ⟨r, hr, c, hc⟩
    exact ⟨r, c, hr, hc⟩

/-- A sprite has at most 15 rows, so no two of them wrap onto one and each pixel is inverted once. -/
theorem State.drawnCanvas_inverts (x y n : Nibble) (s : State) :
    Inverts (s.spriteHits x y n) (s.fb, false) (s.drawnCanvas x y n) := by
  have hlen : (s.bytesAt s.i.toNat n.toNat).length ≤ 32 := by
    have := n.isLt
    rw [State.length_bytesAt]; omega
  exact (drawRows_inverts _ _ _ hlen 0 _).congr State.spriteHits_iff

theorem State.drawn_pixel_hit {py : Fin 32} {px : Fin 64} (h : s.spriteHits x y n py px) :
    (s.drawn x y n).pixel py px = !s.pixel py px :=
  (s.drawnCanvas_inverts x y n).hit py px h

theorem State.drawn_pixel_miss {py : Fin 32} {px : Fin 64} (h : ¬ s.spriteHits x y n py px) :
    (s.drawn x y n).pixel py px = s.pixel py px :=
  (s.drawnCanvas_inverts x y n).miss py px h

/-- The sprite hits a pixel that is on: a collision (R192). -/
def State.collides (x y n : Nibble) (s : State) : Prop :=
  ∃ py px, s.spriteHits x y n py px ∧ s.pixel py px = true

theorem State.drawnCanvas_flag : (s.drawnCanvas x y n).2 = true ↔ s.collides x y n := by
  simpa [State.collides, State.pixel] using (s.drawnCanvas_inverts x y n).flag

theorem State.vf_drawn : (s.drawn x y n).reg 0xF = flagByte (s.drawnCanvas x y n).2 := by
  simp [State.drawn, vf]

theorem State.vf_drawn_of_collides (h : s.collides x y n) : (s.drawn x y n).reg 0xF = 1 := by
  rw [State.vf_drawn, State.drawnCanvas_flag.2 h]; rfl

theorem State.vf_drawn_of_free (h : ∀ py px, s.spriteHits x y n py px → s.pixel py px = false) :
    (s.drawn x y n).reg 0xF = 0 := by
  have hflag : (s.drawnCanvas x y n).2 = false := by
    rw [← Bool.not_eq_true, State.drawnCanvas_flag]
    rintro ⟨py, px, hhit, hon⟩
    simp [h py px hhit] at hon
  rw [State.vf_drawn, hflag]; rfl

/-- A display written anew changes no pixel that it holds as before. -/
theorem onlyChanges.setFb_of_pixels {P : Part → Prop} {f : Framebuffer} (h : onlyChanges P s t)
    (hf : ∀ py px, ¬ P (.pixel py px) → f[py.val][px.val] = s.pixel py px) :
    onlyChanges P s (t.setFb f) := by
  intro p hp
  cases p with
  | pixel py px => exact hf py px hp
  | _ => exact h _ hp

theorem State.drawn_frame (x y n : Nibble) (s : State) :
    onlyChanges (fun p => p = .pc ∨ p = .reg 0xF ∨ p = .displayUpdated ∨
      ∃ py px, p = .pixel py px ∧ s.spriteHits x y n py px) s (s.drawn x y n) := by
  refine (((onlyChanges.refl.setFb_of_pixels fun py px hp => ?_).setFlag (.inr (.inl rfl))
    _).setDisplayUpdated (.inr (.inr (.inl rfl))) _).advance (.inl rfl)
  exact State.drawn_pixel_miss fun hhit => hp (.inr (.inr (.inr ⟨py, px, rfl, hhit⟩)))

/-- Settles O39: in bounds the draw ends in `State.drawn`, else the load's check raises the error. -/
theorem drawInvertsTheSpritePixels : Obligations.DrawInvertsTheSpritePixels := by
  refine fun x y n s => ⟨rfl, fun hin => ?_, fun hn hout => ?_⟩
  · exact ⟨_, exec_drw_inBounds hin, fun _ _ => State.drawn_pixel_hit,
      State.vf_drawn_of_collides, State.vf_drawn_of_free, rfl, rfl, s.drawn_frame x y n⟩
  · have hrows : n.toNat ≠ 0 := fun h₀ => hn (BitVec.eq_of_toNat_eq h₀)
    exact commit_bind_raise (loadBytes_outOfBounds hrows (by omega)) _

/-! #### The same draw twice -/

/-- Where VF is no coordinate, a draw leaves all that says which pixels its sprite hits. -/
theorem State.spriteHits_drawn (hx : x ≠ 0xF) (hy : y ≠ 0xF) (py : Fin 32) (px : Fin 64) :
    (s.drawn x y n).spriteHits x y n py px ↔ s.spriteHits x y n py px := by
  have hreg {z : Nibble} (hz : z ≠ 0xF) : (s.drawn x y n).reg z = s.reg z :=
    s.drawn_frame x y n (.reg z) (by simpa using hz)
  have hbyte (a : Nat) : (s.drawn x y n).byteAt a = s.byteAt a := rfl
  have hi : (s.drawn x y n).i = s.i := rfl
  simp only [State.spriteHits, hreg hx, hreg hy, hbyte, hi]

theorem State.drawn_drawn_fb (hx : x ≠ 0xF) (hy : y ≠ 0xF) :
    ((s.drawn x y n).drawn x y n).fb = s.fb := by
  refine fb_eq_of_parts fun py px => ?_
  show ((s.drawn x y n).drawn x y n).pixel py px = s.pixel py px
  by_cases h : s.spriteHits x y n py px
  · rw [State.drawn_pixel_hit ((State.spriteHits_drawn hx hy py px).2 h),
      State.drawn_pixel_hit h, Bool.not_not]
  · rw [State.drawn_pixel_miss (mt (State.spriteHits_drawn hx hy py px).1 h),
      State.drawn_pixel_miss h]

/-- A pixel off before both draws is on before the second. -/
theorem State.vf_drawn_drawn_of_off (hx : x ≠ 0xF) (hy : y ≠ 0xF)
    (h : ∃ py px, s.spriteHits x y n py px ∧ s.pixel py px = false) :
    ((s.drawn x y n).drawn x y n).reg 0xF = 1 := by
  obtain ⟨py, px, hhit, hoff⟩ := h
  refine State.vf_drawn_of_collides ⟨py, px, (State.spriteHits_drawn hx hy py px).2 hhit, ?_⟩
  rw [State.drawn_pixel_hit hhit, hoff, Bool.not_false]

/-- Pixels all on before both draws are all off before the second. -/
theorem State.vf_drawn_drawn_of_on (hx : x ≠ 0xF) (hy : y ≠ 0xF)
    (h : ∀ py px, s.spriteHits x y n py px → s.pixel py px = true) :
    ((s.drawn x y n).drawn x y n).reg 0xF = 0 := by
  refine State.vf_drawn_of_free fun py px hhit => ?_
  have hhit₀ := (State.spriteHits_drawn hx hy py px).1 hhit
  rw [State.drawn_pixel_hit hhit₀, h py px hhit₀, Bool.not_true]

/-- Settles O40: the second draw hits the same pixels, each now inverted. -/
theorem drawTwiceRestoresTheDisplay : Obligations.DrawTwiceRestoresTheDisplay := by
  intro x y n s t hx hy hin hdraw
  obtain rfl := Host.Outcome.next.inj ((exec_drw_inBounds hin).symm.trans hdraw)
  -- A draw leaves `I`, so the second is in bounds too.
  exact ⟨_, exec_drw_inBounds (s := s.drawn x y n) hin, State.drawn_drawn_fb hx hy,
    State.vf_drawn_drawn_of_off hx hy, State.vf_drawn_drawn_of_on hx hy⟩

/-- A lit display, and at `I` a sprite row of one bit: 0x80 at 0x300 (log 16). -/
def litDisplay : State :=
  { State.reset with
    mem := [(0x300, 0x80)]
    i := 0x300
    fb := Vector.replicate 32 (Vector.replicate 64 true) }

theorem litDisplay_pixel (py : Fin 32) (px : Fin 64) : litDisplay.pixel py px = true := by
  simp [State.pixel, litDisplay]

theorem litDisplay_spriteHits : litDisplay.spriteHits 0 0 1 0 0 :=
  ⟨0, 0, by decide, by decide, by decide, by decide, by decide⟩

/-- Refutes O41: on a lit display two draws of a one-bit sprite at the origin leave VF 0, since the
first turns the only pixel off that the second hits. -/
theorem not_secondDrawAlwaysCollides : ¬ Obligations.SecondDrawAlwaysCollides := by
  intro h
  have hone := h 0 0 1 litDisplay _ _ (by decide) (by decide)
    (exec_drw_inBounds (.inr (by decide))) (exec_drw_inBounds (.inr (by decide))) rfl
    ⟨0, 0, litDisplay_spriteHits⟩
  have hzero := State.vf_drawn_drawn_of_on (s := litDisplay) (x := 0) (y := 0) (n := 1)
    (by decide) (by decide) fun py px _ => litDisplay_pixel py px
  exact absurd (hone.symm.trans hzero) (by decide)

end Sys2Proof.Machine
end

/-! ### Timers and input: the key check, the skips on a key, the transfers (O14, O42-O45) -/

section
namespace Sys2Proof.Machine

variable {s : State} {x k : Nibble}

/-! #### The end of the wait for a key (R212) -/

/-- Only one key is pressed with no lesser one pressed. -/
theorem State.leastKey_of_least (hk : s.key k = true)
    (hmin : ∀ j : Nibble, j.toNat < k.toNat → s.key j = false) : s.leastKey = some k := by
  cases hl : s.leastKey with
  | none => simp [State.leastKey_none.1 hl k] at hk
  | some l =>
    obtain ⟨hpressed, hlmin⟩ := State.leastKey_some hl
    have hkl : k.toNat ≤ l.toNat := not_lt.1 fun hlt => by simp [hmin l hlt] at hpressed
    have hlk : l.toNat ≤ k.toNat := not_lt.1 fun hlt => by simp [hlmin k hlt] at hk
    rw [BitVec.eq_of_toNat_eq (hlk.antisymm hkl)]

theorem keyWaitStep_pressed (h : s.leastKey = some k) :
    keyWaitStep x s = ((s.setReg x (k.setWidth 8)).advance).setWait .running := by
  simp [keyWaitStep, h]

theorem keyWaitStep_unpressed (h : s.leastKey = none) : keyWaitStep x s = s := by
  simp [keyWaitStep, h]

/-- A key's index fits a register. -/
theorem State.toNat_reg_setReg_key (s : State) (x k : Nibble) :
    ((s.setReg x (k.setWidth 8)).reg x).toNat = k.toNat := by
  rw [State.reg_setReg, if_pos rfl]
  exact BitVec.toNat_setWidth_of_le (by decide)

/-- Settles O45: the check sees the keys as they are, since the cycle only lowers `display_updated`
before it. -/
theorem keyWaitEndsWithLeastKey : Obligations.KeyWaitEndsWithLeastKey := by
  intro x s ⟨ha, hw⟩
  rw [cpuCycle_awaiting ha hw]
  refine ⟨fun k hk hmin => ?_, fun hnone => ?_⟩
  · have hleast : (s.setDisplayUpdated false).leastKey = some k := State.leastKey_of_least hk hmin
    rw [keyWaitStep_pressed hleast]
    exact ⟨_, rfl, State.toNat_reg_setReg_key _ x k, rfl, rfl, rfl,
      (((onlyChanges.refl.setDisplayUpdated (.inr (.inr (.inr rfl))) _).setReg (.inl rfl)
        _).advance (.inr (.inl rfl))).setWait (.inr (.inr (.inl rfl))) _⟩
  · have hleast : (s.setDisplayUpdated false).leastKey = none := State.leastKey_none.2 hnone
    rw [keyWaitStep_unpressed hleast]
    rfl

/-! #### The host's setter (R218) -/

theorem keySet_frame (k : Nibble) (p : Bool) (s : State) :
    onlyChanges (fun q => q = .key k) s (keySet k p s) := by
  intro q hq
  cases q with
  | key j =>
    have hjk : j ≠ k := fun he => hq (he ▸ rfl)
    exact (s.key_keySet j k p).trans (if_neg hjk)
  | _ => rfl

/-- Settles O14: the setter is one write of the flag, with no look at the status. -/
theorem keySetWritesOneFlag : Obligations.KeySetWritesOneFlag :=
  fun k p s => ⟨_, rfl, (s.key_keySet k k p).trans (if_pos rfl), keySet_frame k p s⟩

/-! #### The skips on a key (R213, R214) -/

theorem nibbleOperand_eq_ok (h : (s.reg x).toNat = k.toNat) : nibbleOperand x s = .ok k := by
  obtain ⟨d, hd, hval⟩ := nibbleOperand_digit (s := s) (x := x) (by omega)
  rw [hd, BitVec.eq_of_toNat_eq (hval.trans h)]

/-- `EXA1` skips where `EX9E` does not. -/
theorem State.skipIf_not_pc (s : State) (c : Bool) :
    (s.skipIf (!c)).pc = if c = true then s.pc + 2 else s.pc + 4 := by
  cases c <;> rfl

/-- Settles O42: the operand is the key `k`, whose flag decides the skip, or its check raises the
error. -/
theorem skipsOnKey : Obligations.SkipsOnKey := by
  refine fun x k s => ⟨rfl, rfl, fun hkey => ?_, fun hlarge => ?_⟩
  · have hk := nibbleOperand_eq_ok hkey
    exact ⟨⟨_, commit_bind_ok hk _, s.skipIf_pc _, s.setPc_frame _⟩,
      ⟨_, commit_bind_ok hk _, s.skipIf_not_pc _, s.setPc_frame _⟩⟩
  · have hraise := nibbleOperand_outOfRange hlarge
    exact ⟨commit_bind_raise hraise _, commit_bind_raise hraise _⟩

/-! #### The timer transfers and the beginning of the wait (R211, R215-R217) -/

theorem State.toneActive_iff (s : State) : s.toneActive = true ↔ s.st.toNat ≠ 0 := by
  rw [State.toneActive, bne_iff_ne, Ne, ← BitVec.toNat_inj]
  rfl

/-- Settles O43: each transfer is one copy and the advance of `PC`; the tone is read off the `ST`
just written. -/
theorem timerTransfers : Obligations.TimerTransfers :=
  fun x s => ⟨rfl, rfl, rfl, ⟨_, rfl, s.reg_result x s.dt, rfl, s.result_frame x s.dt⟩,
    ⟨_, rfl, rfl, rfl, (onlyChanges.refl.setDt (.inl rfl) _).advance (.inr rfl)⟩,
    ⟨_, rfl, rfl, rfl, State.toneActive_iff _,
      (onlyChanges.refl.setSt (.inl rfl) _).advance (.inr rfl)⟩⟩

/-- Settles O44: the dispatching cycle of `FX0A` is one write of the wait state. -/
theorem keyWaitBegins : Obligations.KeyWaitBegins :=
  fun _ _ => ⟨rfl, _, rfl, rfl, onlyChanges.refl.setWait (P := (· = .wait)) rfl _⟩

end Sys2Proof.Machine
end

/-! ### The timer tick and the driver's schedule (O9, O10, O13) -/

section
namespace Sys2Proof.Machine

variable {s : State}

/-! #### Timer ticks one after the other (R252) -/

@[simp] theorem countDown_zero (b : Byte) : countDown 0 b = b :=
  BitVec.eq_of_toNat_eq (toNat_countDown 0 b)

@[simp] theorem countDown_countDown (m n : Nat) (b : Byte) :
    countDown n (countDown m b) = countDown (m + n) b := by
  apply BitVec.eq_of_toNat_eq
  rw [toNat_countDown, toNat_countDown, toNat_countDown, Nat.sub_sub]

@[simp] theorem State.elapse_zero (s : State) : s.elapse 0 = s := by
  simp [State.elapse]

@[simp] theorem State.elapse_elapse (s : State) (m n : Nat) :
    (s.elapse m).elapse n = s.elapse (m + n) := by
  simp [State.elapse, Nat.add_assoc]

/-- `n` timer ticks of an active core, one by one, are a lapse of `n` ticks. -/
theorem iterate_timerTick_active (ha : s.isActive) (n : Nat) : timerTick^[n] s = s.elapse n := by
  induction n with
  | zero => exact s.elapse_zero.symm
  | succ n ih =>
    have hn : (s.elapse n).status = .active := ha
    rw [Function.iterate_succ_apply', ih, timerTick_active hn, State.elapse_elapse]

theorem iterate_timerTick_halted {e : ErrorRecord} (h : s.status = .halted e) (n : Nat) :
    timerTick^[n] s = s :=
  Function.iterate_fixed (timerTick_halted h) n

theorem State.elapse_frame (s : State) (n : Nat) :
    onlyChanges (fun p => p = .dt ∨ p = .st ∨ p = .driver) s (s.elapse n) := by
  intro p hp
  cases p with
  | dt | st | driver => simp at hp
  | _ => rfl

/-- Settles O13: the tick of an active core is a lapse of one tick. -/
theorem timerTickCountsDown : Obligations.TimerTickCountsDown :=
  fun s ha => ⟨s.elapse 1, congrArg Host.Outcome.next (timerTick_active ha),
    toNat_countDown 1 s.dt, toNat_countDown 1 s.st, s.elapse_frame 1⟩

/-! #### The order of the two clocks (R253) -/

/-- The tie `hz * k = 60 * j` is left out by the `- 1` of `ticksBeforeCpuTick`. -/
theorem le_ticksBeforeCpuTick {hz j : Nat} (hhz : 0 < hz) (hj : 0 < j) (k : Nat) :
    k ≤ ticksBeforeCpuTick hz j ↔ hz * k < 60 * j := by
  have hpos : 0 < 60 * j := Nat.mul_pos (by decide) hj
  calc k ≤ (60 * j - 1) / hz
    _ ↔ k * hz ≤ 60 * j - 1 := Nat.le_div_iff_mul_le hhz
    _ ↔ hz * k < 60 * j := by rw [Nat.mul_comm, Nat.le_sub_one_iff_lt hpos]

/-- Settles O10: tick `k` is delivered when it is at most their number. -/
theorem timerTickPrecedesCpuTickByTime : Obligations.TimerTickPrecedesCpuTickByTime :=
  fun _ _ k hhz hj _ => le_ticksBeforeCpuTick hhz hj k

/-! #### The step as a run (R253, R279; log 5) -/

theorem runEvents_singleton (e : Event) (s : State) : runEvents [e] s = applyEvent s e := by
  unfold runEvents
  cases applyEvent s e <;> rfl

/-- Timer ticks never stop a run, so those at its front only move the state it goes on from. -/
theorem runEvents_replicate_timerTick (n : Nat) (es : List Event) (s : State) :
    runEvents (List.replicate n .timerTick ++ es) s = runEvents es (timerTick^[n] s) := by
  induction n generalizing s with
  | zero => rfl
  | succ n ih => exact ih (timerTick s)

/-- Settles O9: the due ticks one by one are the lapse that an active core's step begins with; a
halted core takes neither the ticks nor the step. -/
theorem stepIsItsEventSequence : Obligations.StepIsItsEventSequence := by
  intro s
  rw [runEvents_replicate_timerTick, runEvents_singleton]
  cases hs : s.status with
  | active =>
    rw [iterate_timerTick_active hs]
    exact step_active hs
  | halted e =>
    rw [iterate_timerTick_halted hs]
    exact (step_halted hs).trans (cpuTick_halted hs).symm

end Sys2Proof.Machine
end
